-- ==== Sys2Proof/Word.lean ====
section
/-! DEFINITION. The word types: one byte at a port, one request word at the block's request interface. -/

namespace Sys2Proof

/-- A port value, an EC register value or an EC register address: unsigned, 8 bits
(00_scope.md R8; R5 `PORT_DATA_WIDTH`, `EC_DATA_WIDTH`, `EC_ADDR_WIDTH`). -/
abbrev Byte := BitVec 8

/-- A request word, 24 bits, one format and one length (30_encoding.md R71). -/
abbrev RequestWord := BitVec 24

end Sys2Proof
end

