-- ==== Sys2Proof/Syntax.lean ====
section
/-! DEFINITION. The requests the block accepts, and the assembler statements that stand for them. -/

namespace Sys2Proof

/-- Port select, the field `p` of a request word: 0 = SC (`PORT_SC`), 1 = DATA (`PORT_DATA`). These are the only two
validated port addresses (30_encoding.md R74; 20_memory.md R50). -/
inductive PortSel where
  /-- the status/command port -/
  | sc
  /-- the data port -/
  | data
deriving DecidableEq, Repr, Inhabited

/-- The operation a request word names, the 4-bit opcode of 30_encoding.md R72. -/
inductive Op where
  | acquire
  | inb
  | outb
  | wait
  | read
  | write
deriving DecidableEq, Repr

/-- A request, one constructor per row of the opcode table (30_encoding.md R72, R73). Every operand is as wide as its
field (R74), so no operand can be out of range: see `Statement` for what an assembler user writes. -/
inductive Instr where
  /-- ACQUIRE p: ask for the grant of port `p` (40_port_access.md R90). -/
  | acquire (p : PortSel)
  /-- INB p: read one byte from port `p` (40_port_access.md R93). -/
  | inb (p : PortSel)
  /-- OUTB p, v: write the byte `v` to port `p` (40_port_access.md R94). -/
  | outb (p : PortSel) (v : Byte)
  /-- WAIT b, e: poll the status register until bit `b` reads `e` (41_polling.md R101). -/
  | wait (b : BitVec 3) (e : Bool)
  /-- READ a: read EC register `a` (42_transactions.md R120). -/
  | read (a : Byte)
  /-- WRITE a, v: write the byte `v` to EC register `a` (42_transactions.md R121). -/
  | write (a : Byte) (v : Byte)
deriving DecidableEq, Repr

/-- The operation of a request (30_encoding.md R72). -/
def Instr.op : Instr → Op
  | .acquire _ => .acquire
  | .inb _ => .inb
  | .outb _ _ => .outb
  | .wait _ _ => .wait
  | .read _ => .read
  | .write _ _ => .write

/-- An assembler statement with its operands as the user writes them: any naturals (30_encoding.md R80). The last two are
the block-level pseudo-instructions of R81. -/
inductive Statement where
  | acquire (p : PortSel)
  | inb (p : PortSel)
  | outb (p : PortSel) (v : Nat)
  | wait (bit : Nat) (expected : Nat)
  | read (a : Nat)
  | write (a : Nat) (v : Nat)
  /-- WAIT_IBF_CLEAR, `WAIT IBF_BIT, 0` -/
  | waitIbfClear
  /-- WAIT_OBF_SET, `WAIT OBF_BIT, 1` -/
  | waitObfSet
deriving DecidableEq, Repr

end Sys2Proof
end

