-- ==== Sys2Proof/Config.lean ====
section
/-! DEFINITION. The constants table of 00_scope.md R5, and the free values: what the spec leaves to a draw. -/

namespace Sys2Proof

/-- The timeout policy (42_transactions.md R124; 10_state.md R26): a configuration argument, fixed for a run. -/
inductive Policy where
  /-- record an intermediate-wait timeout and continue: the compatibility default -/
  | compat
  /-- fail fast on any timeout -/
  | strict
deriving DecidableEq, Repr

/-- The privilege authority's answer to one `Acquire` (10_state.md R37). -/
inductive GrantDraw where
  | granted
  | denied
deriving DecidableEq, Repr, Inhabited

/-- The parameters of 00_scope.md R5 that have no value in any source (OPEN), with the policy. The bit positions are plain
naturals here so that a table that breaks R6 can be written down, and refused. -/
structure Config where
  /-- `PORT_SC` -/
  portSc : Nat
  /-- `PORT_DATA` -/
  portData : Nat
  /-- `IO_ADDR_WIDTH` -/
  ioAddrWidth : Nat
  /-- `CMD_READ` -/
  cmdRead : Byte
  /-- `CMD_WRITE` -/
  cmdWrite : Byte
  /-- `IBF_BIT` -/
  ibfBit : Nat
  /-- `OBF_BIT` -/
  obfBit : Nat
  /-- `REG_CPU_TEMP` -/
  regCpuTemp : Byte
  /-- `REG_GPU_TEMP` -/
  regGpuTemp : Byte
  /-- `REG_DUTY_R` -/
  regDutyR : Byte
  /-- `REG_DUTY_W` -/
  regDutyW : Byte
  /-- `REG_RPM_HI` -/
  regRpmHi : Byte
  /-- `REG_RPM_LO` -/
  regRpmLo : Byte
  /-- `POLICY`, COMPAT by default -/
  policy : Policy := .compat
  /-- `EXIT_FAIL`, an integer other than 0 -/
  exitFail : Int
deriving DecidableEq, Repr

namespace Config

/-- `POLL_LIMIT`: the bounded number of attempts of one wait (R5; 41_polling.md R102). -/
def pollLimit : Nat := 100

/-- `POLL_SLEEP` in milliseconds (R5; 41_polling.md R107). No rule of the model depends on it (R215). -/
def pollSleepMs : Nat := 1

/-- `RPM_K` (R5; 43_host_sequences.md R156). -/
def rpmK : Nat := 2156220

/-- `DUTY_RAW_MAX` (R5). -/
def dutyRawMax : Nat := 255

/-- `DUTY_PCT_MAX` (R5). -/
def dutyPctMax : Nat := 100

/-- The `length` of every `acquire`: one port (30_encoding.md R74; 92_eei_decisions.md D9). -/
def acquireLength : Nat := 1

/-- FREE VALUE (log 3): the status byte the EC answers on draw number `k` (10_state.md R36: any byte). -/
opaque freeStatus : Nat → Byte

/-- FREE VALUE (log 3): the data byte the EC answers on draw number `k` (10_state.md R36: any byte). -/
opaque freeData : Nat → Byte

/-- FREE VALUE (log 3): the privilege authority's answer on draw number `k` (10_state.md R37). -/
opaque freeGrant : Nat → GrantDraw

/-- FREE VALUE (log 14): the exit code of an invocation with no argument at all, which 43_host_sequences.md R172 does not give. -/
opaque exitNoArgument : Int

/-- FREE VALUE (log 24): whether an invocation with no argument at all shows usage on the error stream; 43_host_sequences.md R172
does not say. -/
opaque usageNoArgument : Bool

/-- FREE VALUE (log 24): the lines that an invocation with no argument at all prints; R172 does not say. -/
opaque noArgumentText : List String

/-- FREE VALUE (log 24): the lines that help prints; the spec leaves the text out (00_scope.md R4(a)). -/
opaque helpText : List String

/-- FREE VALUE (log 24): the lines that version prints; the spec leaves the text out (00_scope.md R4(a), U18). -/
opaque versionText : List String

/-- FREE VALUE (log 14): `<prog>` of the error line of 43_host_sequences.md R171. -/
opaque progName : String

/-- FREE VALUE (log 14): `<operation>` of the error line. The source gives no text (R171, U18) and does not say what it varies with;
DESIGN CHOICE (log 14): with the occasion, a number for each error line, and the error code. -/
opaque operationText : Nat → Nat → String

/-- FREE VALUE (log 14): `<system error text>` of the error line. The source gives no text (R171, U18) and does not say what it varies
with; DESIGN CHOICE (log 14): with the occasion, a number for each error line, and the error code. -/
opaque systemErrorText : Nat → Nat → String

/-- PRESUMED (log 2): the general-knowledge column of 00_scope.md R5 (93_implementation_defined.md G1 to G6), which is not
normative, with the default policy of R26 and `EXIT_FAIL` = 1 (DESIGN CHOICE). It is only the table that `State.reset` is run
with: every meaning reads the table of its own state. -/
def presumed : Config where
  portSc := 0x66
  portData := 0x62
  ioAddrWidth := 16
  cmdRead := 0x80#8
  cmdWrite := 0x99#8
  ibfBit := 1
  obfBit := 0
  regCpuTemp := 0x07#8
  regGpuTemp := 0xCD#8
  regDutyR := 0xCE#8
  regDutyW := 0x01#8
  regRpmHi := 0xD0#8
  regRpmLo := 0xD1#8
  policy := .compat
  exitFail := 1

end Config

end Sys2Proof
end

