-- ==== Sys2Proof/WellFormed.lean ====
section
/-! DEFINITION. What is well formed: a configuration (00_scope.md R6), an assembler statement (30_encoding.md R80), a request. -/

namespace Sys2Proof

/-- The constraints of 00_scope.md R6, word for word: distinct ports, distinct flag bits, both in 0..7, distinct duty
addresses. `CMD_READ` and `CMD_WRITE` are free of each other. -/
def Config.distinct (c : Config) : Bool :=
  c.portSc != c.portData && c.ibfBit != c.obfBit && decide (c.ibfBit ≤ 7) && decide (c.obfBit ≤ 7)
    && c.regDutyR != c.regDutyW

/-- The types of 00_scope.md R5 that `Config` holds as wider plain data: each port address fits `IO_ADDR_WIDTH` bits, and
`EXIT_FAIL` is not 0 (log 13). -/
def Config.inTypes (c : Config) : Bool :=
  decide (c.portSc < 2 ^ c.ioAddrWidth) && decide (c.portData < 2 ^ c.ioAddrWidth) && c.exitFail != 0

/-- A configuration a run may be given (00_scope.md R5, R6). A model refuses any other (R6). -/
def Config.wf (c : Config) : Bool := c.distinct && c.inTypes

/-- The operand ranges of an assembler statement (30_encoding.md R80): a bit position in 0..7, an expected value 0 or 1,
addresses and values in 0..255. -/
def Statement.wf : Statement → Bool
  | .acquire _ => true
  | .inb _ => true
  | .outb _ v => decide (v ≤ 255)
  | .wait bit expected => decide (bit ≤ 7) && decide (expected ≤ 1)
  | .read a => decide (a ≤ 255)
  | .write a v => decide (a ≤ 255) && decide (v ≤ 255)
  | .waitIbfClear => true
  | .waitObfSet => true

/-- Each operand of a request lies in the range 30_encoding.md R74 gives its field. The operand types are exactly the fields, so
this holds of every term (`Laws.EncodeSpells`): what can be ill formed is a `Statement` or a `Config`. -/
def Instr.wf : Instr → Bool
  | .acquire _ => true
  | .inb _ => true
  | .outb _ v => decide (v.toNat ≤ 255)
  | .wait b _ => decide (b.toNat ≤ 7)
  | .read a => decide (a.toNat ≤ 255)
  | .write a v => decide (a.toNat ≤ 255) && decide (v.toNat ≤ 255)

end Sys2Proof
end

