-- ==== Sys2Proof/Decode.lean ====
section
/-! DEFINITION. The request word: decoder (total, rejecting by name), encoder, opcode map (30_encoding.md R70 to R77). -/

namespace Sys2Proof

/-- The opcode of an operation, `w[23:20]` (30_encoding.md R72). -/
def Op.code : Op → BitVec 4
  | .acquire => 0x1#4
  | .inb => 0x2#4
  | .outb => 0x3#4
  | .wait => 0x4#4
  | .read => 0x8#4
  | .write => 0x9#4

/-- The mask of an operation's row (30_encoding.md R73): its fixed bits. -/
def Op.mask : Op → RequestWord
  | .acquire => 0xFEFFFF#24
  | .inb => 0xFEFFFF#24
  | .outb => 0xFEFF00#24
  | .wait => 0xF0FFFF#24
  | .read => 0xFF00FF#24
  | .write => 0xFF0000#24

/-- The match value of an operation's row (30_encoding.md R73). -/
def Op.pattern : Op → RequestWord
  | .acquire => 0x100000#24
  | .inb => 0x200000#24
  | .outb => 0x300000#24
  | .wait => 0x400000#24
  | .read => 0x800000#24
  | .write => 0x900000#24

/-- `w` spells the operation: `(w & mask) = match` (30_encoding.md R73). -/
def Op.spells (o : Op) (w : RequestWord) : Bool := (w &&& o.mask) == o.pattern

/-- The rows of 30_encoding.md R73, in their order. -/
def opcodeRows : List Op := [.acquire, .inb, .outb, .wait, .read, .write]

/-- Field `OP`, bits 23:20 (30_encoding.md R71). -/
def fieldOp (w : RequestWord) : BitVec 4 := w.extractLsb' 20 4

/-- Field `p`, bit 16: 0 selects SC, 1 selects DATA (30_encoding.md R74). -/
def fieldPort (w : RequestWord) : PortSel := if w.getLsbD 16 then .data else .sc

/-- Field `b`, bits 18:16 (30_encoding.md R74). -/
def fieldBit (w : RequestWord) : BitVec 3 := w.extractLsb' 16 3

/-- Field `e`, bit 19 (30_encoding.md R74). -/
def fieldExpected (w : RequestWord) : Bool := w.getLsbD 19

/-- Field `a`, bits 15:8 (30_encoding.md R74). -/
def fieldAddress (w : RequestWord) : Byte := w.extractLsb' 8 8

/-- Field `v`, bits 7:0 (30_encoding.md R74). -/
def fieldValue (w : RequestWord) : Byte := w.extractLsb' 0 8

/-- Why a word spells no operation (30_encoding.md R75). -/
inductive Reject where
  /-- its opcode is reserved: 0x0, 0x5 to 0x7, 0xA to 0xF -/
  | reservedOpcode
  /-- its opcode is an operation's, and a must-be-zero bit is 1 -/
  | reservedBit
deriving DecidableEq, Repr

/-- What a word is: a request, or a named rejection. -/
inductive Decoded where
  | request (i : Instr)
  | rejected (why : Reject)
deriving DecidableEq, Repr

/-- The request of a word that spells operation `o`, field by field (30_encoding.md R73, R74). -/
def instrOf (o : Op) (w : RequestWord) : Instr :=
  match o with
  | .acquire => .acquire (fieldPort w)
  | .inb => .inb (fieldPort w)
  | .outb => .outb (fieldPort w) (fieldValue w)
  | .wait => .wait (fieldBit w) (fieldExpected w)
  | .read => .read (fieldAddress w)
  | .write => .write (fieldAddress w) (fieldValue w)

/-- The decoder of request words, total (30_encoding.md R73, R75, R76). -/
def decode (w : RequestWord) : Decoded :=
  match opcodeRows.find? (fun o => o.spells w) with
  | some o => .request (instrOf o w)
  | none => if opcodeRows.any (fun o => o.code == fieldOp w) then .rejected .reservedBit else .rejected .reservedOpcode

/-- The port select as a bit (30_encoding.md R74). -/
def PortSel.bit : PortSel → BitVec 1
  | .sc => 0#1
  | .data => 1#1

/-- A request word from its four fields, `0xOFAAVV` (30_encoding.md R71). -/
def word (op : BitVec 4) (f : BitVec 4) (a v : Byte) : RequestWord := op ++ f ++ a ++ v

/-- The request word of a request (30_encoding.md R71 to R74). -/
def encode : Instr → RequestWord
  | .acquire p => word 0x1#4 (0#3 ++ p.bit) 0#8 0#8
  | .inb p => word 0x2#4 (0#3 ++ p.bit) 0#8 0#8
  | .outb p v => word 0x3#4 (0#3 ++ p.bit) 0#8 v
  | .wait b e => word 0x4#4 (BitVec.ofBool e ++ b) 0#8 0#8
  | .read a => word 0x8#4 0#4 a 0#8
  | .write a v => word 0x9#4 0#4 a v

/-- The instruction the decoder reads from an opcode-table word: the low `nbits` bits of `w`, every higher bit 0. A request
word is one unit of 24 bits (30_encoding.md R71) with no byte layout, so the number is the word; a number that does not fit 24 bits
is no request word. -/
def decodeTableWord (nbits w : Nat) : Option Instr :=
  let x := w % 2 ^ nbits
  if x < 2 ^ 24 then
    match decode (BitVec.ofNat 24 x) with
    | .request i => some i
    | .rejected _ => none
  else none

end Sys2Proof
end

