-- ==== Sys2Proof/Machine/State.lean ====
section
/-! DEFINITION. The state of the machine: every register of 10_state.md R20, the trace and the results of 00_scope.md R11,
the Host's and the oracles' coming inputs; the reasons a step can stop; the state after reset. -/

namespace Sys2Proof.Machine

/-- The six wait phases (10_state.md R22). -/
inductive WaitPhase where
  /-- `wait_for_flag` called on its own -/
  | poll
  /-- AwaitInputReady, before the command byte -/
  | w1
  /-- AwaitInputReady₂, before the address byte -/
  | w2
  /-- AwaitOutputReady, before the result byte of a READ -/
  | wObf
  /-- AwaitInputReady₃, before the value byte of a WRITE -/
  | w3
  /-- AwaitInputReady₄, after the value byte of a WRITE -/
  | w4
deriving DecidableEq, Repr

/-- `PHASE`, the 16 values of 10_state.md R21: ten named here and the six wait phases. -/
inductive Phase where
  /-- no request in flight -/
  | idle
  /-- acquire -/
  | acq
  /-- port read -/
  | ior
  /-- port write -/
  | iow
  /-- a wait: POLL, W1, W2, W_OBF, W3 or W4 -/
  | wait (x : WaitPhase)
  /-- TX_CMD, send the command byte -/
  | txCmd
  /-- TX_ADDR, send the address byte -/
  | txAddr
  /-- RX_DATA, receive the result byte -/
  | rxData
  /-- TX_VAL, send the value byte -/
  | txVal
  /-- terminal: the request succeeded -/
  | done
  /-- terminal: the request failed, `ERR` says why -/
  | failed
deriving DecidableEq, Repr

/-- An event of the trace (00_scope.md R9, R11). -/
inductive Event where
  /-- `IoRead(p) = v` -/
  | ioRead (p : PortSel) (v : Byte)
  /-- `IoWrite(p, v)` -/
  | ioWrite (p : PortSel) (v : Byte)
  /-- `Acquire(p) = outcome` -/
  | acquire (p : PortSel) (d : GrantDraw)
  /-- `Sleep(POLL_SLEEP)` -/
  | sleep
deriving DecidableEq, Repr

/-- The error kinds of 60_exceptions.md R180. -/
inductive ErrKind where
  | permission
  | timeout
  /-- raised by the Host only; it never reaches the block -/
  | validation
  | refused
deriving DecidableEq, Repr

/-- The error record, the tuple of 60_exceptions.md R182; a field that does not apply to the kind is `none`. -/
structure ErrRecord where
  code : ErrKind
  wait : Option WaitPhase := none
  bit : Option (BitVec 3) := none
  expected : Option Bool := none
  status : Option Byte := none
  attempts : Option Nat := none
  port : Option PortSel := none
  word : Option RequestWord := none
deriving DecidableEq, Repr

/-- How a request ended (10_state.md R28). -/
inductive Ending where
  | done
  | failed
deriving DecidableEq, Repr

/-- The result record `(outcome, RES, ERR, IGN)` that `collect` returns (10_state.md R28; 42_transactions.md R134). -/
structure Collected where
  outcome : Ending
  res : Option Byte
  err : Option ErrRecord
  ign : BitVec 3
deriving DecidableEq, Repr

/-- Which Host drives the block (40_port_access.md R96; 43_host_sequences.md R150). -/
inductive HostKind where
  /-- a test bench: it issues every word of its queue, whatever the results -/
  | bench
  /-- one invocation of the CLI Host: it issues nothing after a FAILED result (R92, R167) -/
  | cli
deriving DecidableEq, Repr

/-- The machine's state. The registers are those of 10_state.md R20, under their own names; `none` is the spec's own
"no value". The fields after `gdata` are the configuration (log 1), the observation of 00_scope.md R11, and the coming inputs of
the other agents (log 3, 6). -/
structure State where
  /-- `PHASE`, the control state (R21) -/
  phase : Phase
  /-- `OP`, the latched request kind -/
  op : Option Op
  /-- `PS`, port select of ACQUIRE, INB, OUTB -/
  ps : Option PortSel
  /-- `ADR`, EC register address of READ and WRITE -/
  adr : Option Byte
  /-- `VAL`, byte to send for OUTB and WRITE -/
  val : Option Byte
  /-- `WB`, bit position tested by the current wait -/
  wb : Option (BitVec 3)
  /-- `WE`, expected value of that bit -/
  we : Option Bool
  /-- `N`, failed attempts so far in the current wait -/
  n : Nat
  /-- `ST`, the last status byte a wait read in the current request -/
  st : Option Byte
  /-- `RES`, the byte result of INB or READ -/
  res : Option Byte
  /-- `ERR`, why the request failed -/
  err : Option ErrRecord
  /-- `IGN`, intermediate-wait timeouts passed over: bit 0 = W1, bit 1 = W2, bit 2 = W3 -/
  ign : BitVec 3
  /-- `GSC`, grant held for `PORT_SC` (R25) -/
  gsc : Bool
  /-- `GDATA`, grant held for `PORT_DATA` (R25) -/
  gdata : Bool
  /-- the constants table and `POLICY`, arguments of the run that no step changes (R26, R41) -/
  cfg : Config
  /-- the trace, oldest event first (00_scope.md R11) -/
  trace : List Event
  /-- the results the Host collected, oldest first (00_scope.md R11) -/
  results : List Collected
  /-- request words the Host has still to issue, next first -/
  hostQueue : List RequestWord
  /-- which Host that is -/
  hostKind : HostKind
  /-- the EC's coming answers to `IoRead(SC)`, next first; past the end the free value answers -/
  statusIn : List Byte
  /-- the EC's coming answers to `IoRead(DATA)`, next first; past the end the free value answers -/
  dataIn : List Byte
  /-- the privilege authority's coming draws, next first; past the end the free value answers -/
  grantIn : List GrantDraw
  /-- how many draws were made: the argument of the free values -/
  draws : Nat
deriving DecidableEq, Repr

/-- Why the machine stops with a fault. -/
inductive Fault where
  /-- A rule needs the number in a register that holds `none` (10_state.md R20, U16). Raised by the Engine's step; no state that
  reset leads to raises it. Safe. -/
  | noneRegister
  /-- `PHASE` is not a phase of the operation in `OP`, a control state that no rule describes. Raised by the phase steps; no state
  that reset leads to raises it. Safe. -/
  | phaseMismatch
deriving DecidableEq, Repr

/-- Why a step or a host event is refused. -/
inductive Refusal where
  /-- An instruction without a meaning yet. Raised by no arm of `exec`. Safe. -/
  | notModelled (mnemonic : String)
  /-- An `issue` outside IDLE, or of another request than the one in flight: no such move (10_state.md R27, U15). Safe. -/
  | issueOutsideIdle
  /-- The Engine's step in IDLE, DONE or FAILED: not enabled (10_state.md R27). Safe. -/
  | stepNotEnabled
  /-- A `collect` outside DONE and FAILED: not enabled (10_state.md R27). Safe. -/
  | collectNotEnabled
  /-- The configuration breaks 00_scope.md R6, or a type of R5: a model refuses it (U14). Raised by `boot` and `step`. Safe. -/
  | illFormedConfig
deriving DecidableEq, Repr

/-- The outcome of a step of this machine. -/
abbrev StepResult := Host.Outcome State Fault Refusal

/-- The machine right after reset, run with the constants table `c` (10_state.md R40, R41; 70_reset_and_hazards.md R200). The
fields after `gdata` are the model's own (log 4). -/
def State.resetWith (c : Config) : State where
  phase := .idle
  op := none
  ps := none
  adr := none
  val := none
  wb := none
  we := none
  n := 0
  st := none
  res := none
  err := none
  ign := 0#3
  gsc := false
  gdata := false
  cfg := c
  trace := []
  results := []
  hostQueue := []
  hostKind := .bench
  statusIn := []
  dataIn := []
  grantIn := []
  draws := 0

/-- The machine right after reset, with the PRESUMED constants table (log 2). -/
def State.reset : State := State.resetWith Config.presumed

end Sys2Proof.Machine
end

