-- ==== Sys2Proof/Machine/Flags.lean ====
section
/-! DEFINITION. The status flags and the numeric codes: the bit test of an attempt, IBF and OBF, phase and error codes. -/

namespace Sys2Proof.Machine

/-- `s[b]` of a status byte (00_scope.md R7). -/
def statusBit (s : Byte) (b : BitVec 3) : Bool := s.getLsbD b.toNat

/-- The test of one attempt, `s[WB] = WE` (41_polling.md R100). -/
def bitMatches (s : Byte) (b : BitVec 3) (e : Bool) : Bool := statusBit s b == e

/-- `IBF_BIT` as a bit position (00_scope.md R5, R6). DESIGN CHOICE (log 12): it does not look whether the table is well formed; a number
above 7, which R6 refuses, is cut to its low three bits here. -/
def ibfBit (c : Config) : BitVec 3 := BitVec.ofNat 3 c.ibfBit

/-- `OBF_BIT` as a bit position (00_scope.md R5, R6). DESIGN CHOICE (log 12), as for `ibfBit`: a number above 7 is cut to its low three
bits. -/
def obfBit (c : Config) : BitVec 3 := BitVec.ofNat 3 c.obfBit

/-- IBF of a status byte: 0 = the controller is ready to accept a byte (10_state.md R31). -/
def ibf (c : Config) (s : Byte) : Bool := statusBit s (ibfBit c)

/-- OBF of a status byte: 1 = the controller has placed the result in the data port (10_state.md R31). -/
def obf (c : Config) (s : Byte) : Bool := statusBit s (obfBit c)

/-- The phase codes of the wait phases (10_state.md R21). -/
def waitCode : WaitPhase → BitVec 4
  | .poll => 4#4
  | .w1 => 5#4
  | .w2 => 7#4
  | .wObf => 9#4
  | .w3 => 11#4
  | .w4 => 13#4

/-- The phase codes (10_state.md R21). -/
def phaseCode : Phase → BitVec 4
  | .idle => 0#4
  | .acq => 1#4
  | .ior => 2#4
  | .iow => 3#4
  | .wait x => waitCode x
  | .txCmd => 6#4
  | .txAddr => 8#4
  | .rxData => 10#4
  | .txVal => 12#4
  | .done => 14#4
  | .failed => 15#4

/-- The error codes (60_exceptions.md R180); 0 is success. -/
def errCode : ErrKind → Nat
  | .permission => 1
  | .timeout => 2
  | .validation => 3
  | .refused => 4

/-- The three intermediate waits, by their bit of `IGN` (10_state.md R20, R22): bit 0 = W1, bit 1 = W2, bit 2 = W3. -/
def ignIndex : WaitPhase → Option Nat
  | .w1 => some 0
  | .w2 => some 1
  | .w3 => some 2
  | .poll => none
  | .wObf => none
  | .w4 => none

/-- `IGN[i] <- 1` (42_transactions.md R126). -/
def setIgn (ign : BitVec 3) (i : Nat) : BitVec 3 := ign ||| (1#3 <<< i)

end Sys2Proof.Machine
end

