-- ==== Sys2Proof/Machine/Operands.lean ====
section
/-! DEFINITION. The operand forms: what a port select, a wait phase, a command and a request word stand for. -/

namespace Sys2Proof.Machine

/-- The I/O port address a port select stands for (30_encoding.md R74; 20_memory.md R50). -/
def portAddress (c : Config) : PortSel → Nat
  | .sc => c.portSc
  | .data => c.portData

/-- The bit tested and the value expected on entry to a transaction's wait phase (42_transactions.md R116); POLL takes them from
the request instead (10_state.md R21). -/
def waitTarget (c : Config) : WaitPhase → Option (BitVec 3 × Bool)
  | .poll => none
  | .w1 => some (ibfBit c, false)
  | .w2 => some (ibfBit c, false)
  | .wObf => some (obfBit c, true)
  | .w3 => some (ibfBit c, false)
  | .w4 => some (ibfBit c, false)

/-- The entry phase of a request (30_encoding.md R77, step 5). -/
def entryPhase : Instr → Phase
  | .acquire _ => .acq
  | .inb _ => .ior
  | .outb _ _ => .iow
  | .wait _ _ => .wait .poll
  | .read _ => .wait .w1
  | .write _ _ => .wait .w1

/-- Whether a request needs both grants (40_port_access.md R91): every one but ACQUIRE. -/
def needsGrants : Instr → Bool
  | .acquire _ => false
  | .inb _ => true
  | .outb _ _ => true
  | .wait _ _ => true
  | .read _ => true
  | .write _ _ => true

/-- `PS` as a request latches it (30_encoding.md R77, step 3). -/
def latchedPs : Instr → Option PortSel
  | .acquire p => some p
  | .inb p => some p
  | .outb p _ => some p
  | .wait _ _ => none
  | .read _ => none
  | .write _ _ => none

/-- `ADR` as a request latches it (30_encoding.md R77, step 3). -/
def latchedAdr : Instr → Option Byte
  | .acquire _ => none
  | .inb _ => none
  | .outb _ _ => none
  | .wait _ _ => none
  | .read a => some a
  | .write a _ => some a

/-- `VAL` as a request latches it (30_encoding.md R77, step 3). -/
def latchedVal : Instr → Option Byte
  | .acquire _ => none
  | .inb _ => none
  | .outb _ v => some v
  | .wait _ _ => none
  | .read _ => none
  | .write _ v => some v

/-- `WB` as a request latches it (30_encoding.md R77, step 3). -/
def latchedWb : Instr → Option (BitVec 3)
  | .acquire _ => none
  | .inb _ => none
  | .outb _ _ => none
  | .wait b _ => some b
  | .read _ => none
  | .write _ _ => none

/-- `WE` as a request latches it (30_encoding.md R77, step 3). -/
def latchedWe : Instr → Option Bool
  | .acquire _ => none
  | .inb _ => none
  | .outb _ _ => none
  | .wait _ e => some e
  | .read _ => none
  | .write _ _ => none

/-- The request in flight, as the latched registers hold it; `none` where a register it needs holds no value (10_state.md R20). -/
def inFlight (s : State) : Option Instr :=
  match s.op with
  | none => none
  | some .acquire => s.ps.map fun p => Instr.acquire p
  | some .inb => s.ps.map fun p => Instr.inb p
  | some .outb => s.ps.bind fun p => s.val.map fun v => Instr.outb p v
  | some .wait => s.wb.bind fun b => s.we.map fun e => Instr.wait b e
  | some .read => s.adr.map fun a => Instr.read a
  | some .write => s.adr.bind fun a => s.val.map fun v => Instr.write a v

end Sys2Proof.Machine
end

