-- ==== Sys2Proof/Machine/Ops.lean ====
section
/-! DEFINITION. The named operations: the trace events with their draws, `finish`, `raise`, `enter`, the issue of a request,
the wait-phase step, the outcome of a wait, `collect`. -/

namespace Sys2Proof.Machine

/-! ## Events (00_scope.md R9) -/

/-- One more event at the end of the trace (00_scope.md R11). -/
def State.emit (e : Event) (s : State) : State := { s with trace := s.trace ++ [e] }

/-- The byte the EC answers to the next read of a port: a draw, any byte (10_state.md R36). -/
def State.answer (p : PortSel) (s : State) : Byte :=
  match p with
  | .sc => s.statusIn.headD (Config.freeStatus s.draws)
  | .data => s.dataIn.headD (Config.freeData s.draws)

/-- The state after `IoRead(p)`: the answer is used up and recorded (00_scope.md R9; 20_memory.md R54, R56). -/
def State.ioRead (p : PortSel) (s : State) : State :=
  match p with
  | .sc =>
    { s with
      statusIn := s.statusIn.tail
      draws := s.draws + 1
      trace := s.trace ++ [.ioRead .sc (s.answer .sc)] }
  | .data =>
    { s with
      dataIn := s.dataIn.tail
      draws := s.draws + 1
      trace := s.trace ++ [.ioRead .data (s.answer .data)] }

/-- The state after `IoWrite(p, v)`: recorded, and nothing the engine can read changes (10_state.md R36). -/
def State.ioWrite (p : PortSel) (v : Byte) (s : State) : State := s.emit (.ioWrite p v)

/-- The privilege authority's answer to the next `Acquire` (10_state.md R37). -/
def State.grantDraw (s : State) : GrantDraw := s.grantIn.headD (Config.freeGrant s.draws)

/-- The state after `Acquire(p)`, before its outcome is acted on (00_scope.md R9). -/
def State.acquireDraw (p : PortSel) (s : State) : State :=
  { s with
    grantIn := s.grantIn.tail
    draws := s.draws + 1
    trace := s.trace ++ [.acquire p s.grantDraw] }

/-- `Sleep(POLL_SLEEP)`: an event with no effect on any state (70_reset_and_hazards.md R206). -/
def State.sleep (s : State) : State := s.emit .sleep

/-! ## The end of a request and the change of phase -/

/-- `finish`: the request ends in DONE (00_scope.md R9; 42_transactions.md R130). -/
def State.finish (s : State) : State := { s with phase := .done }

/-- `raise`: the failure entry (60_exceptions.md R181, R186). The record goes to `ERR`, the phase to FAILED, and everything
else stays. -/
def State.raise (e : ErrRecord) (s : State) : State := { s with phase := .failed, err := some e }

/-- A PERMISSION record: `port` and nothing else (60_exceptions.md R182; 90_conflicts.md C12). -/
def permissionRecord (p : PortSel) : ErrRecord := { code := .permission, port := some p }

/-- A REFUSED record: `word` and nothing else (60_exceptions.md R182; 90_conflicts.md C12). -/
def refusedRecord (w : RequestWord) : ErrRecord := { code := .refused, word := some w }

/-- The TIMEOUT record of the wait `x` (41_polling.md R109; 60_exceptions.md R182). -/
def timeoutRecord (x : WaitPhase) (s : State) : ErrRecord :=
  { code := .timeout, wait := some x, bit := s.wb, expected := s.we, status := s.st, attempts := some Config.pollLimit }

/-- `enter X`: `PHASE <- X`, `N <- 0`, and `WB` and `WE` as the table of a transaction's waits gives them
(42_transactions.md R116, R118). -/
def State.enter (ph : Phase) (s : State) : State :=
  match ph with
  | .wait x =>
    match waitTarget s.cfg x with
    | some (b, e) => { s with phase := .wait x, n := 0, wb := some b, we := some e }
    | none => { s with phase := .wait x, n := 0 }
  | _ => { s with phase := ph, n := 0 }

/-! ## The issue of a request (30_encoding.md R77) -/

/-- Step 1: the per-request registers are cleared (10_state.md R29). -/
def State.clearRequest (s : State) : State :=
  { s with n := 0, st := none, res := none, err := none, ign := 0#3 }

/-- Step 3: `OP` and the operand registers are latched, and every register the operation does not use holds none. -/
def State.latch (i : Instr) (s : State) : State :=
  { s with
    op := some i.op
    ps := latchedPs i
    adr := latchedAdr i
    val := latchedVal i
    wb := latchedWb i
    we := latchedWe i }

/-- Both grants are held (40_port_access.md R91). -/
def State.bothGrants (s : State) : Bool := s.gsc && s.gdata

/-- The port a PERMISSION failure at issue names: SC if its grant is missing, else DATA (40_port_access.md R91). -/
def State.missingPort (s : State) : PortSel := if s.gsc then .data else .sc

/-- `issue(w)` of a word that spells the request `i`: clear, latch, grant check, entry phase (30_encoding.md R77, steps 1 and
3 to 5; 60_exceptions.md R184). No port access. -/
def State.issue (i : Instr) (s : State) : State :=
  if needsGrants i && !s.bothGrants then
    (s.clearRequest.latch i).raise (permissionRecord s.missingPort)
  else
    (s.clearRequest.latch i).enter (entryPhase i)

/-- `issue(w)` of a word that spells no operation (30_encoding.md R75, R77 step 2). -/
def State.refuseWord (w : RequestWord) (s : State) : State := s.clearRequest.raise (refusedRecord w)

/-- One event of the request `i`. In IDLE it is the issue; while `i` is in flight it is the Engine's step `body`; in any other case
the host has no such move (10_state.md R27, U15). -/
def request (i : Instr) (body : State → StepResult) (s : State) : StepResult :=
  match s.phase with
  | .idle => .next (s.issue i)
  | .done => .refused .issueOutsideIdle
  | .failed => .refused .issueOutsideIdle
  | _ => if inFlight s = some i then body s else .refused .issueOutsideIdle

/-! ## Grants (10_state.md R25) -/

/-- The grant for a port is held (40_port_access.md R90). -/
def State.holds (p : PortSel) (s : State) : Bool :=
  match p with
  | .sc => s.gsc
  | .data => s.gdata

/-- The grant for a port becomes held. Nothing ever clears one (10_state.md R25). -/
def State.grant (p : PortSel) (s : State) : State :=
  match p with
  | .sc => { s with gsc := true }
  | .data => { s with gdata := true }

/-! ## Waits (41_polling.md R102; 42_transactions.md R122 to R127) -/

/-- `on_success` of a wait (41_polling.md R101; 42_transactions.md R122). -/
def State.onSuccess (x : WaitPhase) (s : State) : State :=
  match x with
  | .poll => s.finish
  | .w1 => s.enter .txCmd
  | .w2 => s.enter .txAddr
  | .wObf => s.enter .rxData
  | .w3 => s.enter .txVal
  | .w4 => s.finish

/-- `on_timeout` of a wait: an intermediate wait under COMPAT records itself in `IGN` and goes on (42_transactions.md R126);
every other timeout is surfaced (41_polling.md R104; 42_transactions.md R125, R127). -/
def State.onTimeout (x : WaitPhase) (s : State) : State :=
  match ignIndex x, s.cfg.policy with
  | some i, .compat => { s with ign := setIgn s.ign i }.onSuccess x
  | some _, .strict => s.raise (timeoutRecord x s)
  | none, _ => s.raise (timeoutRecord x s)

/-- One attempt of the wait `x` for bit `b` to read `e` (41_polling.md R100, R102): read the status register into `ST`, test
the bit, then test the limit. -/
def State.attempt (x : WaitPhase) (b : BitVec 3) (e : Bool) (s : State) : State :=
  let v := s.answer .sc
  let s1 := { s.ioRead .sc with st := some v }
  if bitMatches v b e then { s1 with n := 0 }.onSuccess x
  else if s.n + 1 = Config.pollLimit then { s1 with n := 0 }.onTimeout x
  else { s1 with n := s.n + 1 }.sleep

/-- The wait-phase step (41_polling.md R102), on the bit and value `WB` and `WE` hold; a `none` there is the fault of
10_state.md R20. -/
def waitStep (x : WaitPhase) (s : State) : StepResult :=
  match s.wb, s.we with
  | some b, some e => .next (s.attempt x b e)
  | _, _ => .fault .noneRegister

/-! ## The return: `collect` (10_state.md R28; 60_exceptions.md R187) -/

/-- The result record of a request that ended so (10_state.md R28; 42_transactions.md R134). -/
def State.resultRecord (o : Ending) (s : State) : Collected :=
  { outcome := o, res := s.res, err := s.err, ign := s.ign }

/-- What the Host has still to issue once it holds a result: the CLI Host stops at a FAILED one (40_port_access.md R92;
43_host_sequences.md R167), a test bench goes on. -/
def queueAfter (k : HostKind) (o : Ending) (q : List RequestWord) : List RequestWord :=
  match k, o with
  | .cli, .failed => []
  | .cli, .done => q
  | .bench, _ => q

/-- `collect()`: the record is returned to the Host and `PHASE <- IDLE`; nothing else of the Engine changes. -/
def State.collected (o : Ending) (s : State) : State :=
  { s with
    phase := .idle
    results := s.results ++ [s.resultRecord o]
    hostQueue := queueAfter s.hostKind o s.hostQueue }

/-- `collect()` as a host event: enabled only in DONE and FAILED (10_state.md R27). -/
def collect (s : State) : StepResult :=
  match s.phase with
  | .done => .next (s.collected .done)
  | .failed => .next (s.collected .failed)
  | _ => .refused .collectNotEnabled

end Sys2Proof.Machine
end

