-- ==== Sys2Proof/Machine/Polling.lean ====
section
/-! DEFINITION. The polling primitive on its own: WAIT (41_polling.md). -/

namespace Sys2Proof.Machine

/-- The Engine's step while WAIT is in flight: the wait-phase step in POLL, on the target that `WB` and `WE` hold. -/
def waitEngine (s : State) : StepResult :=
  match s.phase with
  | .wait .poll => waitStep .poll s
  | _ => .fault .phaseMismatch

/-- WAIT b, e (41_polling.md R101): the wait-phase step in POLL, on the `WB` and `WE` the request latched. -/
def execWait (b : BitVec 3) (e : Bool) (s : State) : StepResult := request (.wait b e) waitEngine s

end Sys2Proof.Machine
end

