-- ==== Sys2Proof/Machine/PortAccess.lean ====
section
/-! DEFINITION. The port access family: ACQUIRE, INB, OUTB (40_port_access.md). -/

namespace Sys2Proof.Machine

/-- The step in ACQ (40_port_access.md R90): a port already held ends DONE with no event; else the authority draws, GRANTED
sets the grant and ends DONE, DENIED raises PERMISSION. -/
def acquireStep (p : PortSel) (s : State) : State :=
  if s.holds p then s.finish
  else
    match s.grantDraw with
    | .granted => ((s.acquireDraw p).grant p).finish
    | .denied => (s.acquireDraw p).raise (permissionRecord p)

/-- The Engine's step while ACQUIRE is in flight. -/
def acquireEngine (p : PortSel) (s : State) : StepResult :=
  match s.phase with
  | .acq => .next (acquireStep p s)
  | _ => .fault .phaseMismatch

/-- ACQUIRE p (40_port_access.md R90). -/
def execAcquire (p : PortSel) (s : State) : StepResult := request (.acquire p) (acquireEngine p) s

/-- The step in IOR (40_port_access.md R93): one `IoRead`, its byte into `RES`. `ST` is not written. -/
def inbStep (p : PortSel) (s : State) : State := { s.ioRead p with res := some (s.answer p) }.finish

/-- The Engine's step while INB is in flight. -/
def inbEngine (p : PortSel) (s : State) : StepResult :=
  match s.phase with
  | .ior => .next (inbStep p s)
  | _ => .fault .phaseMismatch

/-- INB p (40_port_access.md R93, R95). -/
def execInb (p : PortSel) (s : State) : StepResult := request (.inb p) (inbEngine p) s

/-- The step in IOW (40_port_access.md R94): one `IoWrite`. -/
def outbStep (p : PortSel) (v : Byte) (s : State) : State := (s.ioWrite p v).finish

/-- The Engine's step while OUTB is in flight. -/
def outbEngine (p : PortSel) (v : Byte) (s : State) : StepResult :=
  match s.phase with
  | .iow => .next (outbStep p v s)
  | _ => .fault .phaseMismatch

/-- OUTB p, v (40_port_access.md R94, R95). -/
def execOutb (p : PortSel) (v : Byte) (s : State) : StepResult := request (.outb p v) (outbEngine p v) s

end Sys2Proof.Machine
end

