-- ==== Sys2Proof/Machine/Transactions.lean ====
section
/-! DEFINITION. The register transactions: READ and WRITE (42_transactions.md R115 to R134). -/

namespace Sys2Proof.Machine

/-- A send step (42_transactions.md R118): exactly one `IoWrite`, then the next wait. -/
def sendStep (p : PortSel) (v : Byte) (next : WaitPhase) (s : State) : State := (s.ioWrite p v).enter (.wait next)

/-- The receive step in RX_DATA (42_transactions.md R119). -/
def receiveStep (s : State) : State := { s.ioRead .data with res := some (s.answer .data) }.finish

/-- The Engine's step while READ is in flight, phase by phase (42_transactions.md R130). -/
def readEngine (a : Byte) (s : State) : StepResult :=
  match s.phase with
  | .wait .w1 => waitStep .w1 s
  | .txCmd => .next (sendStep .sc s.cfg.cmdRead .w2 s)
  | .wait .w2 => waitStep .w2 s
  | .txAddr => .next (sendStep .data a .wObf s)
  | .wait .wObf => waitStep .wObf s
  | .rxData => .next (receiveStep s)
  | _ => .fault .phaseMismatch

/-- READ a (42_transactions.md R120, R130): W1, TX_CMD, W2, TX_ADDR, W_OBF, RX_DATA. -/
def execRead (a : Byte) (s : State) : StepResult := request (.read a) (readEngine a) s

/-- The Engine's step while WRITE is in flight, phase by phase (42_transactions.md R130). -/
def writeEngine (a v : Byte) (s : State) : StepResult :=
  match s.phase with
  | .wait .w1 => waitStep .w1 s
  | .txCmd => .next (sendStep .sc s.cfg.cmdWrite .w2 s)
  | .wait .w2 => waitStep .w2 s
  | .txAddr => .next (sendStep .data a .w3 s)
  | .wait .w3 => waitStep .w3 s
  | .txVal => .next (sendStep .data v .w4 s)
  | .wait .w4 => waitStep .w4 s
  | _ => .fault .phaseMismatch

/-- WRITE a, v (42_transactions.md R121, R130): W1, TX_CMD, W2, TX_ADDR, W3, TX_VAL, W4. -/
def execWrite (a v : Byte) (s : State) : StepResult := request (.write a v) (writeEngine a v) s

end Sys2Proof.Machine
end

