-- ==== Sys2Proof/Machine/Dispatch.lean ====
section
/-! DEFINITION. One arm per request: one event of it (10_state.md R27, 00_scope.md R10). -/

namespace Sys2Proof.Machine

def exec (i : Instr) (s : State) : Host.Outcome State Fault Refusal :=
  match i with
  | .acquire p => Sys2Proof.Machine.execAcquire p s
  | .inb p => Sys2Proof.Machine.execInb p s
  | .outb p v => Sys2Proof.Machine.execOutb p v s
  | .wait b e => Sys2Proof.Machine.execWait b e s
  | .read a => Sys2Proof.Machine.execRead a s
  | .write a v => Sys2Proof.Machine.execWrite a v s

end Sys2Proof.Machine
end

