-- ==== Sys2Proof/Machine/Lifecycle.lean ====
section
/-! DEFINITION. The events of the host interface (10_state.md R27): `issue(w)`, the Engine's own step, the Host's turn; booting a
run with a constants table. -/

namespace Sys2Proof.Machine

/-- `issue(w)` as a host event (10_state.md R27; 30_encoding.md R77): enabled only in IDLE. A word that spells no operation ends
the request at once. -/
def issueWord (w : RequestWord) (s : State) : StepResult :=
  match s.phase with
  | .idle =>
    match decode w with
    | .request i => exec i s
    | .rejected _ => .next (s.refuseWord w)
  | _ => .refused .issueOutsideIdle

/-- The Engine's own step (10_state.md R27): enabled in every phase but IDLE, DONE and FAILED. It runs the request in flight; a
register of it that holds none is the fault of R20. -/
def engineStep (s : State) : StepResult :=
  match s.phase with
  | .idle => .refused .stepNotEnabled
  | .done => .refused .stepNotEnabled
  | .failed => .refused .stepNotEnabled
  | _ =>
    match inFlight s with
    | some i => exec i s
    | none => .fault .noneRegister

/-- The Host's turn in IDLE (43_host_sequences.md R150): it issues its next word. With none left the block waits in IDLE
(70_reset_and_hazards.md R200): nothing changes (log 7). -/
def hostTurn (s : State) : StepResult :=
  match s.hostQueue with
  | [] => .next s
  | w :: rest => issueWord w { s with hostQueue := rest }

/-- One move of the system: the Host's in IDLE (issue) and in DONE or FAILED (collect), the Engine's in every other phase
(10_state.md R27; 43_host_sequences.md R150). -/
def move (s : State) : StepResult :=
  match s.phase with
  | .idle => hostTurn s
  | .done => collect s
  | .failed => collect s
  | _ => engineStep s

/-- A run's start with a given constants table: reset, or the refusal of a table that is not well formed (00_scope.md R6;
70_reset_and_hazards.md R200, R204). -/
def boot (c : Config) : StepResult :=
  if c.wf then .next (State.resetWith c) else .refused .illFormedConfig

/-- The Host's next word put at the head of its queue, in IDLE where it issues. -/
def presentWord (w : RequestWord) (s : State) : State :=
  { s with phase := .idle, hostQueue := w :: s.hostQueue }

end Sys2Proof.Machine
end

