-- ==== Sys2Proof/Machine/Step.lean ====
section
/-! DEFINITION. One step of the machine, and where it fetches its next instruction. -/

namespace Sys2Proof.Machine

/-- One step: the next move of the Host or the Engine, in a run whose constants table is well formed (00_scope.md R6, R10;
10_state.md R27). -/
def step (s : State) : Host.Outcome State Fault Refusal :=
  if s.cfg.wf then move s else .refused .illFormedConfig

/-- The word of an opcode-table row put where `step` takes its next instruction: at the head of the Host's queue, with the block
in IDLE, so that the very next step issues it (log 8). -/
def State.withFetchWord (s : State) (nbits w : Nat) : State := presentWord (BitVec.ofNat 24 (w % 2 ^ nbits)) s

end Sys2Proof.Machine
end

