-- ==== Sys2Proof/Machine/Assembler.lean ====
section
/-! DEFINITION. The assembler of 30_encoding.md R80 and R81: one line of text, its statement, its request word. -/

namespace Sys2Proof.Machine

/-- The request a statement stands for (30_encoding.md R80, R81). The two pseudo-instructions take their bit as `ibfBit` and `obfBit`
give it (log 12). -/
def statementInstr (c : Config) : Statement → Instr
  | .acquire p => .acquire p
  | .inb p => .inb p
  | .outb p v => .outb p (BitVec.ofNat 8 v)
  | .wait bit expected => .wait (BitVec.ofNat 3 bit) (expected == 1)
  | .read a => .read (BitVec.ofNat 8 a)
  | .write a v => .write (BitVec.ofNat 8 a) (BitVec.ofNat 8 v)
  | .waitIbfClear => .wait (ibfBit c) false
  | .waitObfSet => .wait (obfBit c) true

/-- The word of a statement; an operand out of range produces none (30_encoding.md R80). DESIGN CHOICE (log 12): it does not look whether
the constants table is well formed, so with an `IBF_BIT` above 7, which `boot` and `step` refuse, WAIT_IBF_CLEAR still gets the word of
the low three bits; 00_scope.md R6 does not say where a model refuses such a table. -/
def assemble (c : Config) (st : Statement) : Option RequestWord :=
  if st.wf then some (encode (statementInstr c st)) else none

/-! ## The text of a line. DESIGN CHOICE (log 16): blanks and tabs separate, the mnemonic alone ignores case. -/

/-- A blank or a tab. -/
def isBlank (ch : Char) : Bool := ch == ' ' || ch == '\t'

/-- A line up to its comment (30_encoding.md R80). -/
def beforeComment : List Char → List Char
  | [] => []
  | ch :: cs => if ch = ';' then [] else ch :: beforeComment cs

/-- A text without the blanks before it. -/
def skipBlanks : List Char → List Char
  | [] => []
  | ch :: cs => if isBlank ch then skipBlanks cs else ch :: cs

/-- A text without the blanks around it. -/
def trim (cs : List Char) : List Char := (skipBlanks (skipBlanks cs).reverse).reverse

/-- The first word of a text and what follows it. -/
def firstWord : List Char → List Char × List Char
  | [] => ([], [])
  | ch :: cs =>
    if isBlank ch then ([], cs)
    else
      let p := firstWord cs
      (ch :: p.1, p.2)

/-- A text cut at its commas. -/
def splitCommas : List Char → List (List Char)
  | [] => [[]]
  | ch :: cs =>
    if ch = ',' then [] :: splitCommas cs
    else
      match splitCommas cs with
      | w :: ws => (ch :: w) :: ws
      | [] => [[ch]]

/-- The operands of a statement: none for an empty text, else separated by commas (30_encoding.md R80). -/
def operandsOf (cs : List Char) : List (List Char) :=
  match trim cs with
  | [] => []
  | ch :: rest => (splitCommas (ch :: rest)).map trim

/-- The value of a digit in base 10 or 16. -/
def digitValue (base : Nat) (ch : Char) : Option Nat :=
  let k := ch.toNat
  let d :=
    if 48 ≤ k ∧ k ≤ 57 then some (k - 48)
    else if 65 ≤ k ∧ k ≤ 70 then some (k - 55)
    else if 97 ≤ k ∧ k ≤ 102 then some (k - 87)
    else none
  d.bind fun v => if v < base then some v else none

/-- Digits after the value read so far. -/
def digitsFrom (base : Nat) : Nat → List Char → Option Nat
  | acc, [] => some acc
  | acc, ch :: cs => (digitValue base ch).bind fun d => digitsFrom base (base * acc + d) cs

/-- A number, decimal or `0x` hexadecimal (30_encoding.md R80). -/
def number : List Char → Option Nat
  | [] => none
  | '0' :: 'x' :: [] => none
  | '0' :: 'x' :: cs => digitsFrom 16 0 cs
  | cs => digitsFrom 10 0 cs

/-- The port operand, the keyword SC or DATA (30_encoding.md R80). -/
def portKeyword (cs : List Char) : Option PortSel :=
  if cs = ['S', 'C'] then some .sc
  else if cs = ['D', 'A', 'T', 'A'] then some .data
  else none

/-- A letter in upper case. -/
def upper (ch : Char) : Char := if 97 ≤ ch.toNat ∧ ch.toNat ≤ 122 then Char.ofNat (ch.toNat - 32) else ch

/-- A mnemonic of the assembler. -/
inductive Mnemonic where
  | acquire
  | inb
  | outb
  | wait
  | read
  | write
  | waitIbfClear
  | waitObfSet
deriving DecidableEq, Repr

/-- The mnemonics by their letters, in upper case (30_encoding.md R80, R81). -/
def mnemonicOf (cs : List Char) : Option Mnemonic :=
  match cs.map upper with
  | ['A', 'C', 'Q', 'U', 'I', 'R', 'E'] => some .acquire
  | ['I', 'N', 'B'] => some .inb
  | ['O', 'U', 'T', 'B'] => some .outb
  | ['W', 'A', 'I', 'T'] => some .wait
  | ['R', 'E', 'A', 'D'] => some .read
  | ['W', 'R', 'I', 'T', 'E'] => some .write
  | ['W', 'A', 'I', 'T', '_', 'I', 'B', 'F', '_', 'C', 'L', 'E', 'A', 'R'] => some .waitIbfClear
  | ['W', 'A', 'I', 'T', '_', 'O', 'B', 'F', '_', 'S', 'E', 'T'] => some .waitObfSet
  | _ => none

/-- A statement from its mnemonic and operands; another number of operands is no statement. -/
def statementOf (m : Mnemonic) (operands : List (List Char)) : Option Statement :=
  match m, operands with
  | .acquire, [p] => (portKeyword p).map fun x => Statement.acquire x
  | .inb, [p] => (portKeyword p).map fun x => Statement.inb x
  | .outb, [p, v] => (portKeyword p).bind fun x => (number v).map fun y => Statement.outb x y
  | .wait, [b, e] => (number b).bind fun x => (number e).map fun y => Statement.wait x y
  | .read, [a] => (number a).map fun x => Statement.read x
  | .write, [a, v] => (number a).bind fun x => (number v).map fun y => Statement.write x y
  | .waitIbfClear, [] => some .waitIbfClear
  | .waitObfSet, [] => some .waitObfSet
  | _, _ => none

/-- The statement of a line (30_encoding.md R80). -/
def parseLine (line : List Char) : Option Statement :=
  let p := firstWord (trim (beforeComment line))
  (mnemonicOf p.1).bind fun m => statementOf m (operandsOf p.2)

/-- The request word of a line of text, if the assembler accepts it (30_encoding.md R80). -/
def assembleLine (c : Config) (line : List Char) : Option RequestWord := (parseLine line).bind (assemble c)

end Sys2Proof.Machine
end

