-- ==== Sys2Proof/Machine/HostSequences.lean ====
section
/-! DEFINITION. The calling layer (43_host_sequences.md): the arithmetic of the readings, the pseudo-instructions, the invocations of
the CLI Host and what they report. The block never uses any of it. -/

namespace Sys2Proof.Machine

/-! ## Host arithmetic -/

/-- `scale_down(r)`, a raw duty as a percentage (43_host_sequences.md R151). -/
def scaleDown (r : Nat) : Nat := (2 * Config.dutyPctMax * r + Config.dutyRawMax) / (2 * Config.dutyRawMax)

/-- `scale_up(p)`, a percentage as a raw duty, halves rounded up (43_host_sequences.md R152). -/
def scaleUp (p : Nat) : Nat := (2 * Config.dutyRawMax * p + Config.dutyPctMax) / (2 * Config.dutyPctMax)

/-- The RPM count `256 * hi + lo` (43_host_sequences.md R155; 20_memory.md R52). -/
def combined (hi lo : Byte) : Nat := 256 * hi.toNat + lo.toNat

/-- `rpm(c)`: 0 for 0, else `RPM_K div c` (43_host_sequences.md R156). -/
def rpm (c : Nat) : Nat := if c = 0 then 0 else Config.rpmK / c

/-! ## Readings and the host-level pseudo-instructions -/

/-- The four readings, in the fixed order of 43_host_sequences.md R164. -/
inductive Reading where
  | cpuTemp
  | gpuTemp
  | fanDuty
  | fanRpms
deriving DecidableEq, Repr

/-- The requests of one reading (43_host_sequences.md R160 to R163). -/
def readingRequests (c : Config) : Reading → List Instr
  | .cpuTemp => [.read c.regCpuTemp]
  | .gpuTemp => [.read c.regGpuTemp]
  | .fanDuty => [.read c.regDutyR]
  | .fanRpms => [.read c.regRpmHi, .read c.regRpmLo]

/-- The host-level pseudo-instructions of 30_encoding.md R82. -/
inductive Pseudo where
  | getCpuTemp
  | getGpuTemp
  | getFanDuty
  | getFanRpm
  | getAll
  | setFanDuty (p : Int)
deriving DecidableEq, Repr

/-- The WRITE of SET_FAN_DUTY, or no request where the argument is outside 0..100 (43_host_sequences.md R165). -/
def setRequests (c : Config) (p : Int) : List Instr :=
  if 0 ≤ p ∧ p ≤ 100 then [.write c.regDutyW (BitVec.ofNat 8 (scaleUp p.toNat))] else []

/-- The expansion of a pseudo-instruction (43_host_sequences.md R160 to R165). -/
def pseudoRequests (c : Config) : Pseudo → List Instr
  | .getCpuTemp => readingRequests c .cpuTemp
  | .getGpuTemp => readingRequests c .gpuTemp
  | .getFanDuty => readingRequests c .fanDuty
  | .getFanRpm => readingRequests c .fanRpms
  | .getAll => [Reading.cpuTemp, .gpuTemp, .fanDuty, .fanRpms].flatMap (readingRequests c)
  | .setFanDuty p => setRequests c p

/-! ## Invocations of the CLI Host -/

/-- The selector flags of `get`: `-c`, `-g`, `-d`, `-r` (43_host_sequences.md R164). -/
structure Selectors where
  cpu : Bool
  gpu : Bool
  duty : Bool
  rpms : Bool
deriving DecidableEq, Repr

/-- The readings a `get` produces: the selected ones in the fixed order, all four with no flag (43_host_sequences.md R164). -/
def selectedReadings (f : Selectors) : List Reading :=
  if f.cpu || f.gpu || f.duty || f.rpms then
    (if f.cpu then [.cpuTemp] else []) ++ (if f.gpu then [.gpuTemp] else []) ++ (if f.duty then [.fanDuty] else [])
      ++ (if f.rpms then [.fanRpms] else [])
  else [.cpuTemp, .gpuTemp, .fanDuty, .fanRpms]

/-- An invocation, its arguments already parsed (00_scope.md R4(a) leaves the parsing out). -/
inductive Command where
  /-- `get` with selectors, and `-b`/`--bare` -/
  | get (f : Selectors) (bare : Bool)
  /-- `set -d`, with its argument as an integer, or `none` where it is not parseable -/
  | set (arg : Option Int)
  | help
  | version
  | noArgument
  | unknown
deriving DecidableEq, Repr

/-- The validated argument of `set` (43_host_sequences.md R165). -/
def validDuty : Option Int → Option Nat
  | some p => if 0 ≤ p ∧ p ≤ 100 then some p.toNat else none
  | none => none

/-- The requests of an invocation: both ACQUIREs, SC first, then the requests of its pseudo-instruction; none for a `set` that
fails validation, for help, version, no argument, an unknown command (43_host_sequences.md R165, R166, R172;
70_reset_and_hazards.md R202, R203). -/
def commandRequests (c : Config) : Command → List Instr
  | .get f _ => [.acquire .sc, .acquire .data] ++ (selectedReadings f).flatMap (readingRequests c)
  | .set arg =>
    match validDuty arg with
    | some p => [.acquire .sc, .acquire .data, .write c.regDutyW (BitVec.ofNat 8 (scaleUp p))]
    | none => []
  | .help => []
  | .version => []
  | .noArgument => []
  | .unknown => []

/-- The start of an invocation: a process is a run from reset (70_reset_and_hazards.md R200), driven by the CLI Host. -/
def invocation (c : Config) (cmd : Command) : State :=
  { State.resetWith c with hostQueue := (commandRequests c cmd).map encode, hostKind := .cli }

/-! ## What an invocation reports, from the results the Host collected -/

/-- How far the results collected so far carry a part of an invocation. -/
inductive Progress (α : Type) where
  /-- it completed, with its value and the results after it -/
  | ended (a : α) (rest : List Collected)
  /-- a request of it ended FAILED; or, by the model's choice (log 23), DONE without the byte the Host needs -/
  | failed (k : Option ErrKind)
  /-- its results are not all collected yet -/
  | waiting
deriving DecidableEq, Repr

/-- The next result, if it is DONE; a DONE result with `IGN != 0` counts as a success (43_host_sequences.md R167). DESIGN CHOICE
(log 23): a FAILED result without a record, which the block never returns, is a failure of no kind. -/
def takeDone : List Collected → Progress Collected
  | [] => .waiting
  | r :: rest =>
    match r.outcome with
    | .done => .ended r rest
    | .failed => .failed (r.err.map fun e => e.code)

/-- The byte of the next result: `RES` only after its outcome was checked (10_state.md R42). DESIGN CHOICE (log 23): a DONE result
without a byte, which the block never returns for a READ and no rule gives a report for, is a failure of no kind. -/
def takeByte (rs : List Collected) : Progress Byte :=
  match takeDone rs with
  | .ended r rest =>
    match r.res with
    | some b => .ended b rest
    | none => .failed none
  | .failed k => .failed k
  | .waiting => .waiting

/-- One reading from the results: the raw byte of a temperature (R154), the scaled duty (R162), the RPM of two bytes (R163). -/
def takeReading (r : Reading) (rs : List Collected) : Progress Nat :=
  match takeByte rs with
  | .failed k => .failed k
  | .waiting => .waiting
  | .ended b rest =>
    match r with
    | .cpuTemp => .ended b.toNat rest
    | .gpuTemp => .ended b.toNat rest
    | .fanDuty => .ended (scaleDown b.toNat) rest
    | .fanRpms =>
      match takeByte rest with
      | .failed k => .failed k
      | .waiting => .waiting
      | .ended lo rest2 => .ended (rpm (combined b lo)) rest2

/-- One printed line (43_host_sequences.md R170). -/
structure Line where
  reading : Reading
  value : Nat
deriving DecidableEq, Repr

/-- The label of a reading (43_host_sequences.md R170). -/
def readingLabel : Reading → String
  | .cpuTemp => "cpu-temp"
  | .gpuTemp => "gpu-temp"
  | .fanDuty => "fan-duty"
  | .fanRpms => "fan-rpms"

/-- The text of a line: label, colon, blank, decimal value; bare, the value alone (43_host_sequences.md R170). -/
def lineText (bare : Bool) (l : Line) : String :=
  if bare then toString l.value else readingLabel l.reading ++ ": " ++ toString l.value

/-- The lines of the readings completed so far, each printed as it completes, and what stopped them
(43_host_sequences.md R169). -/
def takeReadings : List Reading → List Collected → List Line × Progress Unit
  | [], rs => ([], .ended () rs)
  | r :: more, rs =>
    match takeReading r rs with
    | .failed k => ([], .failed k)
    | .waiting => ([], .waiting)
    | .ended v rest =>
      let p := takeReadings more rest
      ({ reading := r, value := v } :: p.1, p.2)

/-- What an invocation has shown: the lines on the standard output, the kind of its one error line, usage on the error stream, and
the exit code, `none` while it still runs. -/
structure Report where
  lines : List Line
  error : Option ErrKind
  usage : Bool
  exit : Option Int
deriving DecidableEq, Repr

/-- The report of a sequence that printed `lines` and stands so (43_host_sequences.md R167, R171): a failure prints one error line
and exits `EXIT_FAIL`, success exits 0. DESIGN CHOICE (log 23): a failure of no kind, which no result of the block makes, exits
`EXIT_FAIL` with no error line. -/
def closeReport (c : Config) (lines : List Line) : Progress Unit → Report
  | .ended _ _ => { lines := lines, error := none, usage := false, exit := some 0 }
  | .failed k => { lines := lines, error := k, usage := false, exit := some c.exitFail }
  | .waiting => { lines := lines, error := none, usage := false, exit := none }

/-- What follows the two ACQUIREs, on the results after them (43_host_sequences.md R166, R168). -/
def afterAcquires (rs : List Collected) : Progress Unit :=
  match takeDone rs with
  | .failed k => .failed k
  | .waiting => .waiting
  | .ended _ rest =>
    match takeDone rest with
    | .failed k => .failed k
    | .waiting => .waiting
    | .ended _ rest2 => .ended () rest2

/-- The report of an invocation, from the results its Host has collected (43_host_sequences.md R164 to R172). DESIGN CHOICE (log 24):
help, version, an invocation with no argument and an unknown command report no error of the four kinds, and help and version show
no usage on the error stream; whether an invocation with no argument shows usage is free. -/
def report (c : Config) (cmd : Command) (rs : List Collected) : Report :=
  match cmd with
  | .get f _ =>
    match afterAcquires rs with
    | .ended _ rest =>
      let p := takeReadings (selectedReadings f) rest
      closeReport c p.1 p.2
    | .failed k => closeReport c [] (.failed k)
    | .waiting => closeReport c [] .waiting
  | .set arg =>
    match validDuty arg with
    | none => closeReport c [] (.failed (some .validation))
    | some _ =>
      match afterAcquires rs with
      | .ended _ rest =>
        match takeDone rest with
        | .ended _ rest2 => closeReport c [] (.ended () rest2)
        | .failed k => closeReport c [] (.failed k)
        | .waiting => closeReport c [] .waiting
      | .failed k => closeReport c [] (.failed k)
      | .waiting => closeReport c [] .waiting
  | .help => { lines := [], error := none, usage := false, exit := some 0 }
  | .version => { lines := [], error := none, usage := false, exit := some 0 }
  | .noArgument => { lines := [], error := none, usage := Config.usageNoArgument, exit := some Config.exitNoArgument }
  | .unknown => { lines := [], error := none, usage := true, exit := some c.exitFail }

/-- The standard output of an invocation, line by line (43_host_sequences.md R170, R172). The texts of help, of version and of an
invocation with no argument are free. DESIGN CHOICE (log 24): an unknown command, whose usage goes to the error stream, and a `set`
that fails print nothing there. -/
def outputText (cmd : Command) (r : Report) : List String :=
  match cmd with
  | .get _ bare => r.lines.map (lineText bare)
  | .set _ => []
  | .help => Config.helpText
  | .version => Config.versionText
  | .noArgument => Config.noArgumentText
  | .unknown => []

/-- The error line, `<prog>: get: <operation>: <system error text>` (43_host_sequences.md R171), with free texts. What the
texts vary with is open too. DESIGN CHOICE (log 14): with the error code and with `occasion`, any number that tells the line from
others, so that two failures of one kind need not print one line; `<prog>` is the same in every line. -/
def errorLine (occasion : Nat) (k : ErrKind) : String :=
  Config.progName ++ ": get: " ++ Config.operationText occasion (errCode k) ++ ": "
    ++ Config.systemErrorText occasion (errCode k)

/-- A run is at its end: the Host has collected the result of its last request and the block is in IDLE
(70_reset_and_hazards.md R205). -/
def runEnded (s : State) : Bool := s.phase == .idle && s.hostQueue.isEmpty

end Sys2Proof.Machine
end

