-- ==== Sys2Proof/Machine/Memory.lean ====
section
/-! DEFINITION. A byte memory in canonical form: the register space of the reference EC (92_eei_decisions.md D16). The block itself has
no memory (20_memory.md R50). -/

namespace Sys2Proof.Machine

/-- A byte memory: addresses strictly rising, no entry equal to what an unlisted address reads as. -/
abbrev Memory := List Host.Cell

/-- What an unlisted slot reads as: 0x00 (95_test_vectors.md, Conventions: "Every slot not listed is 0x00"). -/
def unlisted : Byte := 0x00#8

/-- The byte at an address. -/
def readByte (a : Nat) : Memory → Byte
  | [] => unlisted
  | c :: m => if c.1 = a then c.2 else readByte a m

/-- One cell before a memory, left out where it holds what an unlisted address reads as. -/
def consCell (a : Nat) (v : Byte) (m : Memory) : Memory := if v = unlisted then m else (a, v) :: m

/-- The memory with one byte written, in canonical form again. -/
def writeByte (a : Nat) (v : Byte) : Memory → Memory
  | [] => consCell a v []
  | c :: m =>
    if a < c.1 then consCell a v (c :: m)
    else if a = c.1 then consCell a v m
    else c :: writeByte a v m

/-- The canonical form. -/
def memoryWf : Memory → Bool
  | [] => true
  | c :: m => c.2 != unlisted && m.all (fun d => decide (c.1 < d.1)) && memoryWf m

end Sys2Proof.Machine
end

