-- ==== Sys2Proof/Machine/ReferenceEc.lean ====
section
/-! DEFINITION. The reference EC of 92_eei_decisions.md D16, an idealised always-ready controller for test vectors only, and the
machine run against it. What is proved under it is no claim about hardware (D16). -/

namespace Sys2Proof.Machine

/-- `mode` of the reference EC. -/
inductive EcMode where
  | idle
  | rd
  | wr
  | wra (a : Byte)
deriving DecidableEq, Repr

/-- The reference EC: `reg`, `mode`, `out`. -/
structure RefEc where
  reg : Memory
  mode : EcMode
  out : Option Byte
deriving DecidableEq, Repr

/-- What `IoRead(SC)` returns: OBF where a result is latched, IBF always 0. -/
def ecStatus (c : Config) (ec : RefEc) : Byte :=
  match ec.out with
  | some _ => 1#8 <<< c.obfBit
  | none => 0x00#8

/-- What `IoRead(DATA)` returns. -/
def ecData (ec : RefEc) : Byte := ec.out.getD 0x00#8

/-- `IoWrite(SC, v)`: a command. -/
def ecCommand (c : Config) (v : Byte) (ec : RefEc) : RefEc :=
  { ec with mode := if v = c.cmdRead then .rd else if v = c.cmdWrite then .wr else .idle }

/-- `IoWrite(DATA, d)`: an address or a payload, by mode. -/
def ecPayload (d : Byte) (ec : RefEc) : RefEc :=
  match ec.mode with
  | .rd => { ec with out := some (readByte d.toNat ec.reg), mode := .idle }
  | .wr => { ec with mode := .wra d }
  | .wra a => { ec with reg := writeByte a.toNat d ec.reg, mode := .idle }
  | .idle => ec

/-- The reference EC after one event of the trace. -/
def ecReact (c : Config) (ec : RefEc) : Event → RefEc
  | .ioRead .sc _ => ec
  | .ioRead .data _ => { ec with out := none }
  | .ioWrite .sc v => ecCommand c v ec
  | .ioWrite .data d => ecPayload d ec
  | .acquire _ _ => ec
  | .sleep => ec

/-- The machine and a reference EC behind its ports. -/
structure Bench where
  machine : State
  ec : RefEc
deriving DecidableEq, Repr

/-- The machine with the reference EC's answers as its next ones. A step makes at most one port access (00_scope.md R10). -/
def answeredBy (ec : RefEc) (s : State) : State :=
  { s with statusIn := [ecStatus s.cfg ec], dataIn := [ecData ec] }

/-- One step of the machine against the reference EC, which then sees the step's events. -/
def benchStep (b : Bench) : Host.Outcome Bench Fault Refusal :=
  match step (answeredBy b.ec b.machine) with
  | .next t => .next { machine := t, ec := (t.trace.drop b.machine.trace.length).foldl (ecReact b.machine.cfg) b.ec }
  | .fault f => .fault f
  | .refused r => .refused r

/-- `k` steps against the reference EC. -/
def benchRun : Nat → Bench → Host.Outcome Bench Fault Refusal
  | 0, b => .next b
  | k + 1, b =>
    match benchStep b with
    | .next b' => benchRun k b'
    | .fault f => .fault f
    | .refused r => .refused r

end Sys2Proof.Machine
end

