-- ==== Sys2Proof/Safety.lean ====
section
/-! DEFINITION. What a safe state is, and the measures of a trace, in the terms the statements use. -/

namespace Sys2Proof.Machine

/-- `k` steps of the machine, stopping at the first fault or refusal (`Host.Core.run` of the core: `runSteps_eq_run`). -/
def runSteps : Nat → State → StepResult
  | 0, s => .next s
  | k + 1, s =>
    match step s with
    | .next t => runSteps k t
    | .fault f => .fault f
    | .refused r => .refused r

/-- A request is in flight in this phase: every phase but IDLE, DONE and FAILED (10_state.md R27). -/
def inProgress : Phase → Bool
  | .idle => false
  | .done => false
  | .failed => false
  | .acq => true
  | .ior => true
  | .iow => true
  | .wait _ => true
  | .txCmd => true
  | .txAddr => true
  | .rxData => true
  | .txVal => true

/-- The phases a request passes through before its end (10_state.md R21; 42_transactions.md R115). -/
def phasesOf : Instr → List Phase
  | .acquire _ => [.acq]
  | .inb _ => [.ior]
  | .outb _ _ => [.iow]
  | .wait _ _ => [.wait .poll]
  | .read _ => [.wait .w1, .txCmd, .wait .w2, .txAddr, .wait .wObf, .rxData]
  | .write _ _ => [.wait .w1, .txCmd, .wait .w2, .txAddr, .wait .w3, .txVal, .wait .w4]

/-- The bits of `IGN` that may be set in a phase: those of the intermediate waits already left (10_state.md R20). -/
def mayBeIgnored : Phase → BitVec 3
  | .acq => 0#3
  | .ior => 0#3
  | .iow => 0#3
  | .wait .poll => 0#3
  | .wait .w1 => 0#3
  | .txCmd => 1#3
  | .wait .w2 => 1#3
  | .txAddr => 3#3
  | .wait .wObf => 3#3
  | .rxData => 3#3
  | .wait .w3 => 3#3
  | .txVal => 7#3
  | .wait .w4 => 7#3
  | .idle => 7#3
  | .done => 7#3
  | .failed => 7#3

/-- The shape 60_exceptions.md R182 gives a record of the block: each kind sets exactly its own fields; VALIDATION never
reaches the block (R180). -/
def recordShaped (e : ErrRecord) : Bool :=
  match e.code with
  | .permission => e == { code := .permission, port := e.port } && e.port.isSome
  | .timeout =>
    e == { code := .timeout, wait := e.wait, bit := e.bit, expected := e.expected, status := e.status, attempts := some Config.pollLimit }
      && e.wait.isSome && e.bit.isSome && e.expected.isSome && e.status.isSome
  | .refused => e == { code := .refused, word := e.word } && e.word.isSome
  | .validation => false

/-- The invariant of the Engine: what the rules of 10_state.md and 60_exceptions.md say holds between any two events. -/
structure Consistent (s : State) : Prop where
  /-- `N` never reaches `POLL_LIMIT` (R23) -/
  counterBelowLimit : s.n < Config.pollLimit
  /-- `N` is 0 outside the wait phases (R21) -/
  counterOnlyInWaits : (∀ x, s.phase ≠ .wait x) → s.n = 0
  /-- the request in flight is latched, and the phase is one of its own (R20, R21) -/
  latched : inProgress s.phase = true → ∃ i, inFlight s = some i ∧ s.phase ∈ phasesOf i
  /-- a transaction's wait tests its own bit for its own value (42_transactions.md R116) -/
  tested : ∀ x b e, s.phase = .wait x → waitTarget s.cfg x = some (b, e) → s.wb = some b ∧ s.we = some e
  /-- no phase but ACQ touches a port without both grants (40_port_access.md R91) -/
  granted : inProgress s.phase = true → s.phase ≠ .acq → s.bothGrants = true
  /-- `RES` holds a byte after the result step only (42_transactions.md R119; 60_exceptions.md R181) -/
  noEarlyResult : s.phase ≠ .idle → s.phase ≠ .done → s.res = none
  /-- `RX_DATA` is entered only once OBF = 1 was seen: `ST` holds that byte (70_reset_and_hazards.md R208) -/
  outputSeen : s.phase = .rxData → ∃ v, s.st = some v ∧ obf s.cfg v = true
  /-- a DONE request has a byte exactly when it is INB or READ (42_transactions.md R134) -/
  resultOfReads : s.phase = .done → (s.res.isSome = true ↔ s.op = some .inb ∨ s.op = some .read)
  /-- `ERR` holds a record exactly in FAILED, until the next request (60_exceptions.md R181) -/
  errorOfFailures : s.phase ≠ .idle → (s.err.isSome = true ↔ s.phase = .failed)
  /-- the record has the shape of its kind (60_exceptions.md R182) -/
  recordShape : ∀ e, s.err = some e → recordShaped e = true
  /-- `IGN` holds only the bits of waits already left (10_state.md R20) -/
  maskInOrder : s.ign &&& ~~~(mayBeIgnored s.phase) = 0#3
  /-- `IGN` is 0 under STRICT (42_transactions.md R127) -/
  strictMask : s.cfg.policy = .strict → s.ign = 0#3

/-- A port event: an `IoRead` or an `IoWrite` (20_memory.md R54). -/
def isPortEvent : Event → Bool
  | .ioRead _ _ => true
  | .ioWrite _ _ => true
  | .acquire _ _ => false
  | .sleep => false

/-- The port events of a trace (42_transactions.md R131). -/
def portEvents (t : List Event) : Nat := t.countP isPortEvent

/-- The sleeps of a trace (42_transactions.md R131). -/
def sleeps (t : List Event) : Nat := t.countP (fun e => e == .sleep)

/-- The time the sleeps of a trace take, in milliseconds (70_reset_and_hazards.md R215, informative). -/
def sleepMs (t : List Event) : Nat := sleeps t * Config.pollSleepMs

/-- The port-level trace of one wait whose attempts before the last read `fails` and whose last attempt reads `last`: one sleep
between each two consecutive attempts (30_encoding.md R78; 41_polling.md R103). -/
def waitTrace (fails : List Byte) (last : Byte) : List Event :=
  fails.flatMap (fun v => [.ioRead .sc v, .sleep]) ++ [.ioRead .sc last]

/-- The phase that follows a phase when its step completes (10_state.md R21), for the operation in flight. -/
def nextPhase (o : Op) : Phase → Option Phase
  | .acq => some .done
  | .ior => some .done
  | .iow => some .done
  | .wait .poll => some .done
  | .wait .w1 => some .txCmd
  | .txCmd => some (.wait .w2)
  | .wait .w2 => some .txAddr
  | .txAddr => some (if o = .read then .wait .wObf else .wait .w3)
  | .wait .wObf => some .rxData
  | .rxData => some .done
  | .wait .w3 => some .txVal
  | .txVal => some (.wait .w4)
  | .wait .w4 => some .done
  | .idle => none
  | .done => some .idle
  | .failed => some .idle

/-- The most Engine steps from a phase's entry to the request's end (42_transactions.md R131). -/
def stepBound : Instr → Nat
  | .acquire _ => 1
  | .inb _ => 1
  | .outb _ _ => 1
  | .wait _ _ => Config.pollLimit
  | .read _ => 3 * Config.pollLimit + 3
  | .write _ _ => 4 * Config.pollLimit + 3

end Sys2Proof.Machine
end

