-- ==== Sys2Proof/Certificates/Slice0/Obligations.lean ====
section
/-! DEFINITION. The statements for the provers. Every next state is written out field by field (`with`), so a statement is also the
frame of its instruction: a field it does not name is unchanged. A statement holds under every constants table, either policy
and every answer of the oracles, unless it names one. -/

open Sys2Proof Sys2Proof.Machine

/-! ## Encoding -/

/-- Decode and encode agree on every request with every operand value (30_encoding.md R71 to R74). -/
def Obligations.DecodeOfEncodeIsSame : Prop :=
  ∀ i : Instr, decode (encode i) = .request i

/-- No word but its own encoding decodes to a request: no bit of a word is dropped (30_encoding.md R73, R75). -/
def Obligations.EncodeOfDecodeIsSame : Prop :=
  ∀ (w : RequestWord) (i : Instr), decode w = .request i → encode i = w

/-- A word matches exactly one row, and is read by it, or matches none and is refused (R76, which the spec infers from 30_encoding.md
R73 and R75). -/
def Obligations.EveryWordMatchesOneRowOrIsRefused : Prop :=
  ∀ w : RequestWord,
    (∃ o : Op, w &&& o.mask = o.pattern ∧ (∀ o' : Op, w &&& o'.mask = o'.pattern → o' = o) ∧
      decode w = .request (instrOf o w)) ∨
    ((∀ o : Op, w &&& o.mask ≠ o.pattern) ∧ ∃ why, decode w = .rejected why)

/-- 30_encoding.md R73 and R74, row by row with the spec's numbers: a word that matches a row decodes to that request, each operand
taken from its bits. -/
def Obligations.RowsReadTheirFields : Prop :=
  ∀ w : RequestWord,
    (w &&& 0xFEFFFF#24 = 0x100000#24 → decode w = .request (.acquire (if w.getLsbD 16 then .data else .sc))) ∧
    (w &&& 0xFEFFFF#24 = 0x200000#24 → decode w = .request (.inb (if w.getLsbD 16 then .data else .sc))) ∧
    (w &&& 0xFEFF00#24 = 0x300000#24 →
      decode w = .request (.outb (if w.getLsbD 16 then .data else .sc) (BitVec.ofNat 8 (w.toNat % 256)))) ∧
    (w &&& 0xF0FFFF#24 = 0x400000#24 →
      decode w = .request (.wait (BitVec.ofNat 3 (w.toNat / 2 ^ 16 % 8)) (w.getLsbD 19))) ∧
    (w &&& 0xFF00FF#24 = 0x800000#24 → decode w = .request (.read (BitVec.ofNat 8 (w.toNat / 2 ^ 8 % 256)))) ∧
    (w &&& 0xFF0000#24 = 0x900000#24 →
      decode w = .request (.write (BitVec.ofNat 8 (w.toNat / 2 ^ 8 % 256)) (BitVec.ofNat 8 (w.toNat % 256))))

/-- The encoding examples and the two refused words (R83, which the spec infers from 30_encoding.md R71 and R73). -/
def Obligations.EncodingExamplesDecode : Prop :=
  decode 0x800700#24 = .request (.read 0x07#8) ∧
  decode 0x900180#24 = .request (.write 0x01#8 0x80#8) ∧
  decode 0x410000#24 = .request (.wait 1#3 false) ∧
  decode 0x480000#24 = .request (.wait 0#3 true) ∧
  decode 0x3100CE#24 = .request (.outb .data 0xCE#8) ∧
  decode 0x110000#24 = .request (.acquire .data) ∧
  decode 0x200000#24 = .request (.inb .sc) ∧
  decode 0x800701#24 = .rejected .reservedBit ∧
  decode 0xA00000#24 = .rejected .reservedOpcode

/-! ## The step and the issue of a request -/

/-- The model's choice (log 6), the Host as a queue of words: in IDLE the step takes the next word of the queue, and is `exec` of the
request it spells. Of the spec is what such an issue does (30_encoding.md R77) and that the Host issues one request at a time
(43_host_sequences.md R150). -/
def Obligations.StepIssuesTheDecodedRequest : Prop :=
  ∀ (s : State) (w : RequestWord) (rest : List RequestWord) (i : Instr),
    s.cfg.wf = true → s.phase = .idle → s.hostQueue = w :: rest → decode w = .request i →
    step s = exec i { s with hostQueue := rest }

/-- While a request is in flight the step is `exec` of it, at that very state (10_state.md R27). -/
def Obligations.StepRunsTheRequestInFlight : Prop :=
  ∀ (s : State) (i : Instr),
    s.cfg.wf = true → inProgress s.phase = true → inFlight s = some i → step s = exec i s

/-- The model's choice (log 7), from R59 and R200 "after reset it waits in IDLE": with no word left to issue the step changes
nothing. -/
def Obligations.IdleWithoutRequestWaits : Prop :=
  ∀ s : State, s.cfg.wf = true → s.phase = .idle → s.hostQueue = [] → step s = .next s

/-- 30_encoding.md R75: a word with a reserved opcode, or with a 1 in a must-be-zero bit, ends at once in FAILED with the REFUSED
record, and makes no event. What it leaves in `OP`, `PS`, `ADR`, `VAL`, `WB`, `WE` is the model's choice (log 10): unchanged; so is
the queue the word is taken from (log 6). -/
def Obligations.ReservedWordIsRefusedAtIssue : Prop :=
  ∀ (s : State) (w : RequestWord) (rest : List RequestWord),
    s.cfg.wf = true → s.phase = .idle → s.hostQueue = w :: rest →
    (fieldOp w ∈ [0x0#4, 0x5#4, 0x6#4, 0x7#4, 0xA#4, 0xB#4, 0xC#4, 0xD#4, 0xE#4, 0xF#4] ∨
      ∃ o : Op, fieldOp w = o.code ∧ w &&& o.mask ≠ o.pattern) →
    step s = .next
      { s with
        hostQueue := rest
        phase := .failed
        err := some { code := .refused, word := some w }
        n := 0, st := none, res := none, ign := 0#3 }

/-- The issue of each request that finds the grants it needs: cleared, latched, in its entry phase, with the first wait's target set
for a transaction (30_encoding.md R77; 10_state.md R29; 42_transactions.md R116, R117). That a register the request does not use is
set to none, whatever it held, is the model's reading of R77 (log 9). -/
def Obligations.IssueClearsLatchesAndEnters : Prop :=
  ∀ s : State, s.phase = .idle →
    (∀ p, exec (.acquire p) s = .next
      { s with
        phase := .acq, op := some .acquire, ps := some p, adr := none, val := none, wb := none, we := none
        n := 0, st := none, res := none, err := none, ign := 0#3 }) ∧
    (s.gsc = true → s.gdata = true →
      (∀ p, exec (.inb p) s = .next
        { s with
          phase := .ior, op := some .inb, ps := some p, adr := none, val := none, wb := none, we := none
          n := 0, st := none, res := none, err := none, ign := 0#3 }) ∧
      (∀ p v, exec (.outb p v) s = .next
        { s with
          phase := .iow, op := some .outb, ps := some p, adr := none, val := some v, wb := none, we := none
          n := 0, st := none, res := none, err := none, ign := 0#3 }) ∧
      (∀ b e, exec (.wait b e) s = .next
        { s with
          phase := .wait .poll, op := some .wait, ps := none, adr := none, val := none, wb := some b, we := some e
          n := 0, st := none, res := none, err := none, ign := 0#3 }) ∧
      (∀ a, exec (.read a) s = .next
        { s with
          phase := .wait .w1, op := some .read, ps := none, adr := some a, val := none
          wb := some (BitVec.ofNat 3 s.cfg.ibfBit), we := some false
          n := 0, st := none, res := none, err := none, ign := 0#3 }) ∧
      (∀ a v, exec (.write a v) s = .next
        { s with
          phase := .wait .w1, op := some .write, ps := none, adr := some a, val := some v
          wb := some (BitVec.ofNat 3 s.cfg.ibfBit), we := some false
          n := 0, st := none, res := none, err := none, ign := 0#3 }))

/-- 40_port_access.md R91: INB, OUTB, WAIT, READ and WRITE without both grants fail at issue with PERMISSION for the missing port, SC
first, and make no event. The operands are latched before the grant is checked (30_encoding.md R77, steps 3 and 4). That a register
the request does not use is set to none, whatever it held, is the model's reading of R77 (log 9). -/
def Obligations.IssueWithoutBothGrantsIsDenied : Prop :=
  ∀ s : State, s.phase = .idle → (s.gsc = false ∨ s.gdata = false) →
    let denied : ErrRecord := { code := .permission, port := some (if s.gsc = false then .sc else .data) }
    (∀ p, exec (.inb p) s = .next
      { s with
        phase := .failed, op := some .inb, ps := some p, adr := none, val := none, wb := none, we := none
        n := 0, st := none, res := none, err := some denied, ign := 0#3 }) ∧
    (∀ p v, exec (.outb p v) s = .next
      { s with
        phase := .failed, op := some .outb, ps := some p, adr := none, val := some v, wb := none, we := none
        n := 0, st := none, res := none, err := some denied, ign := 0#3 }) ∧
    (∀ b e, exec (.wait b e) s = .next
      { s with
        phase := .failed, op := some .wait, ps := none, adr := none, val := none, wb := some b, we := some e
        n := 0, st := none, res := none, err := some denied, ign := 0#3 }) ∧
    (∀ a, exec (.read a) s = .next
      { s with
        phase := .failed, op := some .read, ps := none, adr := some a, val := none, wb := none, we := none
        n := 0, st := none, res := none, err := some denied, ign := 0#3 }) ∧
    (∀ a v, exec (.write a v) s = .next
      { s with
        phase := .failed, op := some .write, ps := none, adr := some a, val := some v, wb := none, we := none
        n := 0, st := none, res := none, err := some denied, ign := 0#3 })

/-- Whatever the registers of the earlier requests hold, the issue of a request leaves the same state. 10_state.md R29 says so of the
result of the next request; of the registers a request does not use it is the model's reading of 30_encoding.md R77 (log 9), which
sets them to none. -/
def Obligations.NoRegisterLeaksIntoTheNextRequest : Prop :=
  ∀ (s : State) (i : Instr) (op : Option Op) (ps : Option PortSel) (adr val : Option Byte) (wb : Option (BitVec 3))
    (we : Option Bool) (n : Nat) (st res : Option Byte) (err : Option ErrRecord) (ign : BitVec 3),
    s.phase = .idle →
    exec i { s with op := op, ps := ps, adr := adr, val := val, wb := wb, we := we, n := n, st := st, res := res, err := err, ign := ign }
      = exec i s

/-- 10_state.md R27: `issue` is enabled in IDLE only, `collect` in DONE and FAILED only, the Engine's step in every other phase
only. Where an event is not enabled the host has no such move, which the model says by a named refusal (log 11), and a request other than
the one in flight has none either. -/
def Obligations.HostEventsOnlyWhereEnabled : Prop :=
  ∀ s : State, Consistent s →
    (∀ w, s.phase = .idle → ∃ t, issueWord w s = .next t) ∧
    (∀ w, s.phase ≠ .idle → issueWord w s = .refused .issueOutsideIdle) ∧
    (∀ i, s.phase ≠ .idle → inFlight s ≠ some i → exec i s = .refused .issueOutsideIdle) ∧
    (s.phase = .done ∨ s.phase = .failed → ∃ t, collect s = .next t) ∧
    (s.phase ≠ .done → s.phase ≠ .failed → collect s = .refused .collectNotEnabled) ∧
    (s.phase ≠ .idle → s.phase ≠ .done → s.phase ≠ .failed → ∃ t, engineStep s = .next t) ∧
    (s.phase = .idle ∨ s.phase = .done ∨ s.phase = .failed → engineStep s = .refused .stepNotEnabled)

/-- A constants table that breaks any of the constraints of 00_scope.md R6 is refused. That it is refused at boot and at every step is
the model's choice (log 12): R6 does not say where. -/
def Obligations.IllFormedConfigurationIsRefused : Prop :=
  ∀ c : Config,
    (c.portSc = c.portData ∨ c.ibfBit = c.obfBit ∨ 7 < c.ibfBit ∨ 7 < c.obfBit ∨ c.regDutyR = c.regDutyW) →
    boot c = .refused .illFormedConfig ∧ ∀ s : State, s.cfg = c → step s = .refused .illFormedConfig

/-! ## ACQUIRE, INB, OUTB -/

/-- The step in ACQ (40_port_access.md R90): a held port ends DONE with no event; GRANTED sets exactly its grant; DENIED fails with
PERMISSION and leaves both grants as they were. -/
def Obligations.AcquireStepByHeldGrantedDenied : Prop :=
  ∀ (s : State) (p : PortSel), s.phase = .acq → inFlight s = some (.acquire p) →
    ((p = .sc → s.gsc = true) → (p = .data → s.gdata = true) → exec (.acquire p) s = .next { s with phase := .done }) ∧
    (p = .sc → s.gsc = false → s.grantDraw = .granted → exec (.acquire p) s = .next
      { s with
        phase := .done, gsc := true, grantIn := s.grantIn.tail, draws := s.draws + 1
        trace := s.trace ++ [.acquire .sc .granted] }) ∧
    (p = .data → s.gdata = false → s.grantDraw = .granted → exec (.acquire p) s = .next
      { s with
        phase := .done, gdata := true, grantIn := s.grantIn.tail, draws := s.draws + 1
        trace := s.trace ++ [.acquire .data .granted] }) ∧
    ((p = .sc ∧ s.gsc = false ∨ p = .data ∧ s.gdata = false) → s.grantDraw = .denied → exec (.acquire p) s = .next
      { s with
        phase := .failed, err := some { code := .permission, port := some p }
        grantIn := s.grantIn.tail, draws := s.draws + 1
        trace := s.trace ++ [.acquire p .denied] })

/-- The step in IOR (40_port_access.md R93): one read of the port selected, its byte in `RES`, DONE; `ST` is not written. -/
def Obligations.InbReturnsThePortByte : Prop :=
  ∀ s : State, s.phase = .ior →
    (inFlight s = some (.inb .sc) → exec (.inb .sc) s = .next
      { s with
        phase := .done, res := some (s.answer .sc), statusIn := s.statusIn.tail, draws := s.draws + 1
        trace := s.trace ++ [.ioRead .sc (s.answer .sc)] }) ∧
    (inFlight s = some (.inb .data) → exec (.inb .data) s = .next
      { s with
        phase := .done, res := some (s.answer .data), dataIn := s.dataIn.tail, draws := s.draws + 1
        trace := s.trace ++ [.ioRead .data (s.answer .data)] })

/-- The step in IOW (40_port_access.md R94): one write of `VAL` to the port selected, DONE, and nothing else changes. -/
def Obligations.OutbWritesThePortByte : Prop :=
  ∀ (s : State) (p : PortSel) (v : Byte), s.phase = .iow → inFlight s = some (.outb p v) →
    exec (.outb p v) s = .next { s with phase := .done, trace := s.trace ++ [.ioWrite p v] }

/-- 40_port_access.md R95: INB and OUTB each take exactly one step and one port event. -/
def Obligations.InbAndOutbTakeOneStepAndOneEvent : Prop :=
  ∀ (s : State) (i : Instr), ((∃ p, i = .inb p) ∨ (∃ p v, i = .outb p v)) → s.phase = entryPhase i → inFlight s = some i →
    ∃ t e, exec i s = .next t ∧ t.phase = .done ∧ t.trace = s.trace ++ [e] ∧ isPortEvent e = true

/-! ## Waits -/

/-- WAIT completes on the attempt that reads the bit as expected (41_polling.md R101, R102): DONE, the byte in `ST`, `N` back to 0. -/
def Obligations.WaitEndsDoneWhenTheBitMatches : Prop :=
  ∀ (s : State) (b : BitVec 3) (e : Bool), s.phase = .wait .poll → inFlight s = some (.wait b e) →
    (s.answer .sc).getLsbD b.toNat = e →
    exec (.wait b e) s = .next
      { s with
        phase := .done, n := 0, st := some (s.answer .sc), statusIn := s.statusIn.tail, draws := s.draws + 1
        trace := s.trace ++ [.ioRead .sc (s.answer .sc)] }

/-- A failed attempt with attempts left, in any of the six wait phases: one more in `N`, one sleep after the read, and the wait goes
on (41_polling.md R102). -/
def Obligations.FailedAttemptCountsAndSleeps : Prop :=
  ∀ (s : State) (i : Instr) (x : WaitPhase) (b : BitVec 3) (e : Bool),
    s.phase = .wait x → inFlight s = some i → s.phase ∈ phasesOf i → s.wb = some b → s.we = some e →
    (s.answer .sc).getLsbD b.toNat ≠ e → s.n + 1 ≠ 100 →
    exec i s = .next
      { s with
        n := s.n + 1, st := some (s.answer .sc), statusIn := s.statusIn.tail, draws := s.draws + 1
        trace := s.trace ++ [.ioRead .sc (s.answer .sc), .sleep] }

/-- 41_polling.md R104: the timeout of a WAIT is always surfaced, with its record, whatever the policy. -/
def Obligations.PollTimeoutIsSurfaced : Prop :=
  ∀ (s : State) (b : BitVec 3) (e : Bool), s.phase = .wait .poll → inFlight s = some (.wait b e) →
    (s.answer .sc).getLsbD b.toNat ≠ e → s.n + 1 = 100 →
    exec (.wait b e) s = .next
      { s with
        phase := .failed, n := 0, st := some (s.answer .sc), statusIn := s.statusIn.tail, draws := s.draws + 1
        trace := s.trace ++ [.ioRead .sc (s.answer .sc)]
        err := some
          { code := .timeout, wait := some .poll, bit := some b, expected := some e, status := some (s.answer .sc), attempts := some 100 } }

/-- The counting law (R103, which the spec infers from 41_polling.md R102), of every wait phase: `k` reads and `k - 1` sleeps to a
success on attempt `k`, exactly 100 reads and 99 sleeps to a timeout; the wait then ends as its `on_success` or `on_timeout` says. -/
def Obligations.WaitCountingLaw : Prop :=
  ∀ (s : State) (i : Instr) (x : WaitPhase) (b : BitVec 3) (e : Bool) (fails : List Byte) (last : Byte) (rest : List Byte),
    s.cfg.wf = true → s.phase = .wait x → inFlight s = some i → s.phase ∈ phasesOf i → s.wb = some b → s.we = some e → s.n = 0 →
    s.statusIn = fails ++ last :: rest → (∀ v ∈ fails, v.getLsbD b.toNat ≠ e) →
    portEvents (waitTrace fails last) = fails.length + 1 ∧ sleeps (waitTrace fails last) = fails.length ∧
    (fails.length < 100 → last.getLsbD b.toNat = e → runSteps (fails.length + 1) s = .next
      (State.onSuccess x
        { s with
          st := some last, statusIn := rest, draws := s.draws + (fails.length + 1)
          trace := s.trace ++ waitTrace fails last })) ∧
    (fails.length = 99 → last.getLsbD b.toNat ≠ e → runSteps 100 s = .next
      (State.onTimeout x
        { s with
          st := some last, statusIn := rest, draws := s.draws + 100
          trace := s.trace ++ waitTrace fails last }))

/-- Only the tested bit of a status byte decides an attempt (41_polling.md R105): where an attempt runs on one byte it runs on any byte
that agrees on that bit, and the two states differ at most in `ST`, the trace, and the record's copy of `ST` (R109). -/
def Obligations.OnlyTheTestedBitDecides : Prop :=
  ∀ (s t : State) (i : Instr) (x : WaitPhase) (b : BitVec 3) (v v' : Byte) (rest : List Byte),
    s.phase = .wait x → s.wb = some b → v.getLsbD b.toNat = v'.getLsbD b.toNat →
    exec i { s with statusIn := v :: rest } = .next t →
    ∃ t', exec i { s with statusIn := v' :: rest } = .next t' ∧
      ({ t' with st := t.st, trace := t.trace, err := t'.err.map fun r => { r with status := t.st } } : State)
        = { t with err := t.err.map fun r => { r with status := t.st } }

/-- A WAIT's outcome does not depend on the policy or the grants once it has started (R106, which the spec infers from 41_polling.md
R102). -/
def Obligations.WaitIgnoresPolicyAndGrants : Prop :=
  ∀ (s t : State) (b : BitVec 3) (e : Bool) (policy : Policy) (gsc gdata : Bool),
    s.phase = .wait .poll → exec (.wait b e) s = .next t →
    exec (.wait b e) { s with gsc := gsc, gdata := gdata, cfg := { s.cfg with policy := policy } } = .next
      { t with gsc := gsc, gdata := gdata, cfg := { t.cfg with policy := policy } }

/-! ## READ and WRITE -/

/-- 42_transactions.md R118: each send phase makes exactly one write, of the byte and to the port it gives, and enters the wait after
it with its target. -/
def Obligations.SendStepsWriteOneByte : Prop :=
  ∀ (s : State) (a v : Byte),
    (s.phase = .txCmd → inFlight s = some (.read a) → exec (.read a) s = .next
      { s with
        phase := .wait .w2, n := 0, wb := some (BitVec.ofNat 3 s.cfg.ibfBit), we := some false
        trace := s.trace ++ [.ioWrite .sc s.cfg.cmdRead] }) ∧
    (s.phase = .txCmd → inFlight s = some (.write a v) → exec (.write a v) s = .next
      { s with
        phase := .wait .w2, n := 0, wb := some (BitVec.ofNat 3 s.cfg.ibfBit), we := some false
        trace := s.trace ++ [.ioWrite .sc s.cfg.cmdWrite] }) ∧
    (s.phase = .txAddr → inFlight s = some (.read a) → exec (.read a) s = .next
      { s with
        phase := .wait .wObf, n := 0, wb := some (BitVec.ofNat 3 s.cfg.obfBit), we := some true
        trace := s.trace ++ [.ioWrite .data a] }) ∧
    (s.phase = .txAddr → inFlight s = some (.write a v) → exec (.write a v) s = .next
      { s with
        phase := .wait .w3, n := 0, wb := some (BitVec.ofNat 3 s.cfg.ibfBit), we := some false
        trace := s.trace ++ [.ioWrite .data a] }) ∧
    (s.phase = .txVal → inFlight s = some (.write a v) → exec (.write a v) s = .next
      { s with
        phase := .wait .w4, n := 0, wb := some (BitVec.ofNat 3 s.cfg.ibfBit), we := some false
        trace := s.trace ++ [.ioWrite .data v] })

/-- READ completes in RX_DATA (42_transactions.md R119, R120): one read of DATA, its byte in `RES`, DONE. -/
def Obligations.ReadEndsDoneWithTheDataByte : Prop :=
  ∀ (s : State) (a : Byte), s.phase = .rxData → inFlight s = some (.read a) →
    exec (.read a) s = .next
      { s with
        phase := .done, res := some (s.answer .data), dataIn := s.dataIn.tail, draws := s.draws + 1
        trace := s.trace ++ [.ioRead .data (s.answer .data)] }

/-- WRITE completes in W4 on the attempt that reads IBF as 0 (42_transactions.md R121, R122). -/
def Obligations.WriteEndsDoneWhenConfirmed : Prop :=
  ∀ (s : State) (a v : Byte), s.phase = .wait .w4 → inFlight s = some (.write a v) →
    s.wb = some (BitVec.ofNat 3 s.cfg.ibfBit) → s.we = some false → ibf s.cfg (s.answer .sc) = false →
    exec (.write a v) s = .next
      { s with
        phase := .done, n := 0, st := some (s.answer .sc), statusIn := s.statusIn.tail, draws := s.draws + 1
        trace := s.trace ++ [.ioRead .sc (s.answer .sc)] }

/-- 42_transactions.md R122: where each wait of a transaction goes when its bit matches. A phase that is no wait is entered with `WB`
and `WE` as they are (R118). -/
def Obligations.TransactionWaitSuccessTable : Prop :=
  ∀ (s : State) (i : Instr) (x : WaitPhase) (b : BitVec 3) (e : Bool),
    s.phase = .wait x → x ≠ .poll → inFlight s = some i → s.phase ∈ phasesOf i → s.wb = some b → s.we = some e →
    (s.answer .sc).getLsbD b.toNat = e →
    exec i s = .next
      { s with
        phase :=
          match x with
          | .w1 => .txCmd
          | .w2 => .txAddr
          | .wObf => .rxData
          | .w3 => .txVal
          | .w4 => .done
          | .poll => .done
        n := 0, st := some (s.answer .sc), statusIn := s.statusIn.tail, draws := s.draws + 1
        trace := s.trace ++ [.ioRead .sc (s.answer .sc)] }

/-- 42_transactions.md R126: under COMPAT the timeout of W1, W2 or W3 sets its own bit of `IGN` and goes on as if the bit had been
seen. -/
def Obligations.CompatRecordsTheTimeoutAndGoesOn : Prop :=
  ∀ (s : State) (i : Instr) (x : WaitPhase) (b : BitVec 3) (e : Bool),
    s.cfg.policy = .compat → s.phase = .wait x → inFlight s = some i → s.phase ∈ phasesOf i → s.wb = some b → s.we = some e →
    (s.answer .sc).getLsbD b.toNat ≠ e → s.n + 1 = 100 →
    (x = .w1 → exec i s = .next
      { s with
        phase := .txCmd, ign := s.ign ||| 0b001#3, n := 0, st := some (s.answer .sc), statusIn := s.statusIn.tail
        draws := s.draws + 1, trace := s.trace ++ [.ioRead .sc (s.answer .sc)] }) ∧
    (x = .w2 → exec i s = .next
      { s with
        phase := .txAddr, ign := s.ign ||| 0b010#3, n := 0, st := some (s.answer .sc), statusIn := s.statusIn.tail
        draws := s.draws + 1, trace := s.trace ++ [.ioRead .sc (s.answer .sc)] }) ∧
    (x = .w3 → exec i s = .next
      { s with
        phase := .txVal, ign := s.ign ||| 0b100#3, n := 0, st := some (s.answer .sc), statusIn := s.statusIn.tail
        draws := s.draws + 1, trace := s.trace ++ [.ioRead .sc (s.answer .sc)] })

/-- 42_transactions.md R127: under STRICT the timeout of W1, W2 or W3 fails the request with its record, no further step of it is
enabled, and `IGN` is 0. -/
def Obligations.StrictFailsOnAnIntermediateTimeout : Prop :=
  ∀ (s : State) (i : Instr) (x : WaitPhase) (b : BitVec 3) (e : Bool),
    Consistent s → s.cfg.policy = .strict → s.phase = .wait x → x = .w1 ∨ x = .w2 ∨ x = .w3 → inFlight s = some i →
    s.wb = some b → s.we = some e → (s.answer .sc).getLsbD b.toNat ≠ e → s.n + 1 = 100 →
    ∃ t : State, exec i s = .next t ∧ t.ign = 0#3 ∧ engineStep t = .refused .stepNotEnabled ∧ t =
      { s with
        phase := .failed, n := 0, st := some (s.answer .sc), statusIn := s.statusIn.tail, draws := s.draws + 1
        trace := s.trace ++ [.ioRead .sc (s.answer .sc)]
        err := some
          { code := .timeout, wait := some x, bit := some b, expected := some e, status := some (s.answer .sc), attempts := some 100 } }

/-- 42_transactions.md R125: the timeout of W_OBF or W4 fails the request with its record under either policy; RX_DATA is not
performed, DATA is not read, and `RES` stays `none`. -/
def Obligations.FinalTimeoutFailsUnderEitherPolicy : Prop :=
  ∀ (s : State) (i : Instr) (x : WaitPhase) (b : BitVec 3) (e : Bool),
    Consistent s → s.phase = .wait x → x = .wObf ∨ x = .w4 → inFlight s = some i →
    s.wb = some b → s.we = some e → (s.answer .sc).getLsbD b.toNat ≠ e → s.n + 1 = 100 →
    ∃ t : State, exec i s = .next t ∧ t.res = none ∧ engineStep t = .refused .stepNotEnabled ∧ t =
      { s with
        phase := .failed, n := 0, st := some (s.answer .sc), statusIn := s.statusIn.tail, draws := s.draws + 1
        trace := s.trace ++ [.ioRead .sc (s.answer .sc)]
        err := some
          { code := .timeout, wait := some x, bit := some b, expected := some e, status := some (s.answer .sc), attempts := some 100 } }

/-- A READ whose waits each succeed at once puts exactly the READ row of 30_encoding.md R78 on the ports and ends DONE with the byte
read (42_transactions.md R115, R120, R134): six steps, after one for the issue from the Host's queue (log 5, 6). -/
def Obligations.ReadRunsItsByteProtocol : Prop :=
  ∀ (s : State) (a : Byte) (w1 w2 wo d : Byte) (srest drest : List Byte) (q : List RequestWord),
    s.cfg.wf = true → s.phase = .idle → s.gsc = true → s.gdata = true → s.hostQueue = encode (.read a) :: q →
    s.statusIn = w1 :: w2 :: wo :: srest → s.dataIn = d :: drest →
    ibf s.cfg w1 = false → ibf s.cfg w2 = false → obf s.cfg wo = true →
    ∃ t, runSteps 7 s = .next t ∧ t.phase = .done ∧ t.res = some d ∧ t.err = none ∧ t.ign = 0#3 ∧ t.st = some wo ∧
      t.hostQueue = q ∧ t.statusIn = srest ∧ t.dataIn = drest ∧ t.gsc = true ∧ t.gdata = true ∧ t.results = s.results ∧
      t.trace = s.trace ++
        [.ioRead .sc w1, .ioWrite .sc s.cfg.cmdRead, .ioRead .sc w2, .ioWrite .data a, .ioRead .sc wo, .ioRead .data d]

/-- A WRITE whose waits each succeed at once puts exactly the WRITE row of 30_encoding.md R78 on the ports and ends DONE
(42_transactions.md R115, R121, R134): seven steps, after one for the issue from the Host's queue (log 5, 6). -/
def Obligations.WriteRunsItsByteProtocol : Prop :=
  ∀ (s : State) (a v : Byte) (w1 w2 w3 w4 : Byte) (srest : List Byte) (q : List RequestWord),
    s.cfg.wf = true → s.phase = .idle → s.gsc = true → s.gdata = true → s.hostQueue = encode (.write a v) :: q →
    s.statusIn = w1 :: w2 :: w3 :: w4 :: srest →
    ibf s.cfg w1 = false → ibf s.cfg w2 = false → ibf s.cfg w3 = false → ibf s.cfg w4 = false →
    ∃ t, runSteps 8 s = .next t ∧ t.phase = .done ∧ t.res = none ∧ t.err = none ∧ t.ign = 0#3 ∧ t.st = some w4 ∧
      t.hostQueue = q ∧ t.statusIn = srest ∧ t.dataIn = s.dataIn ∧ t.gsc = true ∧ t.gdata = true ∧ t.results = s.results ∧
      t.trace = s.trace ++
        [.ioRead .sc w1, .ioWrite .sc s.cfg.cmdWrite, .ioRead .sc w2, .ioWrite .data a, .ioRead .sc w3, .ioWrite .data v,
          .ioRead .sc w4]

/-- Every request ends (R132 and its bounds R131, which the spec infers from 42_transactions.md R116 to R127 and 41_polling.md R102): whatever
the EC and the privilege authority answer, a request issued in IDLE ends in DONE or FAILED within its bound (READ 303 steps, WRITE 403),
and makes no more port events than steps. The one step more, for the issue from the Host's queue, is the model's (log 5, 6). -/
def Obligations.EveryRequestEndsWithinItsBound : Prop :=
  ∀ (s : State) (w : RequestWord) (rest : List RequestWord) (i : Instr),
    s.cfg.wf = true → s.phase = .idle → s.hostQueue = w :: rest → decode w = .request i →
    stepBound (.read 0#8) = 303 ∧ stepBound (.write 0#8 0#8) = 403 ∧
    ∃ k t, k ≤ stepBound i ∧ runSteps (1 + k) s = .next t ∧ (t.phase = .done ∨ t.phase = .failed) ∧
      portEvents t.trace ≤ portEvents s.trace + k

/-- A step moves along the phase table (10_state.md R21; 42_transactions.md R115, R118). Only a wait stays where it is, on a failed
attempt with attempts left, and only ACQ, on a DENIED draw, and a wait, on a timeout that is surfaced, go to FAILED (41_polling.md
R102; 40_port_access.md R90; 42_transactions.md R123): no phase is skipped. -/
def Obligations.PhasesFollowTheTable : Prop :=
  ∀ (s t : State) (i : Instr), inProgress s.phase = true → inFlight s = some i → step s = .next t →
    nextPhase i.op s.phase = some t.phase ∨
    (∃ x, s.phase = .wait x ∧ t.phase = .wait x ∧ s.n + 1 ≠ 100 ∧ t.n = s.n + 1) ∨
    (s.phase = .acq ∧ t.phase = .failed ∧ s.grantDraw = .denied) ∨
    (∃ x, s.phase = .wait x ∧ t.phase = .failed ∧ s.n + 1 = 100 ∧ (x ∉ [.w1, .w2, .w3] ∨ s.cfg.policy = .strict))

/-- 70_reset_and_hazards.md R209: a WRITE is reported DONE only by a W4 attempt that has read IBF as 0. -/
def Obligations.WriteIsDoneOnlyAfterConfirmation : Prop :=
  ∀ (s t : State), Consistent s → step s = .next t → s.phase ≠ .done → t.phase = .done → t.op = some .write →
    s.phase = .wait .w4 ∧ ibf s.cfg (s.answer .sc) = false ∧ t.st = some (s.answer .sc)

/-- 70_reset_and_hazards.md R208: a step of a READ that reads DATA is taken in RX_DATA, with a byte in `ST` that has OBF = 1; and
RX_DATA is entered only by a W_OBF attempt that has read that byte. -/
def Obligations.DataIsReadOnlyAfterOutputFull : Prop :=
  ∀ (s t : State), Consistent s → step s = .next t →
    (∀ a v, inProgress s.phase = true → inFlight s = some (.read a) → .ioRead .data v ∈ t.trace.drop s.trace.length →
      s.phase = .rxData ∧ ∃ u, s.st = some u ∧ obf s.cfg u = true) ∧
    (t.phase = .rxData → s.phase = .wait .wObf ∧ obf s.cfg (s.answer .sc) = true ∧ t.st = some (s.answer .sc))

/-- A send phase is entered only from an intermediate wait, by an attempt whose status byte is in `ST`: it has IBF = 0, or else the
policy is COMPAT and the wait's bit of `IGN` is set (70_reset_and_hazards.md R207, R212; 42_transactions.md R126, R127). -/
def Obligations.ByteIsSentOnlyAfterReadyOrRecorded : Prop :=
  ∀ (s t : State), Consistent s → step s = .next t → t.phase = .txCmd ∨ t.phase = .txAddr ∨ t.phase = .txVal →
    ∃ x k, s.phase = .wait x ∧ ignIndex x = some k ∧ t.st = some (s.answer .sc) ∧
      (ibf s.cfg (s.answer .sc) = false ∨ (s.cfg.policy = .compat ∧ t.ign.getLsbD k = true))

/-- A DONE READ returns the byte its own RX_DATA read, never a stale or zero byte (42_transactions.md R119). -/
def Obligations.DoneReadReturnsTheByteJustRead : Prop :=
  ∀ (s t : State), Consistent s → step s = .next t → s.phase ≠ .done → t.phase = .done → t.op = some .read →
    t.res = some (s.answer .data) ∧ t.trace = s.trace ++ [.ioRead .data (s.answer .data)]

/-! ## Invariants of every step -/

/-- 10_state.md R40: the state after reset, under every constants table, and of `State.reset`. -/
def Obligations.ResetLeavesTheStatedValues : Prop :=
  ∀ s : State, (s = State.reset ∨ ∃ c, s = State.resetWith c) →
    s.phase = .idle ∧ s.n = 0 ∧ s.op = none ∧ s.ps = none ∧ s.adr = none ∧ s.val = none ∧ s.wb = none ∧ s.we = none ∧
    s.st = none ∧ s.res = none ∧ s.err = none ∧ s.ign = 0#3 ∧ s.gsc = false ∧ s.gdata = false

/-- The invariant holds at reset, under every constants table. -/
def Obligations.ResetIsConsistent : Prop :=
  Consistent State.reset ∧ ∀ c, Consistent (State.resetWith c)

/-- Every step keeps the invariant, from every state that has it (10_state.md R20, R21; 40_port_access.md R91; 41_polling.md R102;
42_transactions.md R116, R119, R127, R134; 60_exceptions.md R181, R182; 70_reset_and_hazards.md R208). -/
def Obligations.StepKeepsConsistent : Prop :=
  ∀ s t : State, Consistent s → step s = .next t → Consistent t

/-- No step of a consistent state stops: the block has no stuck state, and raises neither fault of the model (10_state.md R20, R27; R132,
which the spec infers from 42_transactions.md R116 to R127 and 41_polling.md R102; 93_implementation_defined.md U10, U16). In IDLE
with an empty queue the step that waits is the model's (log 7). -/
def Obligations.ConsistentStateNeverStops : Prop :=
  ∀ s : State, Consistent s → s.cfg.wf = true → ∃ t, step s = .next t

/-- A grant, once set, is never cleared by a step (10_state.md R25), and only ACQ's step sets one, on a GRANTED draw (10_state.md R20,
its table; 40_port_access.md R90). -/
def Obligations.GrantsAreNeverCleared : Prop :=
  ∀ s t : State, step s = .next t →
    (s.gsc = true → t.gsc = true) ∧ (s.gdata = true → t.gdata = true) ∧
    (t.gsc ≠ s.gsc ∨ t.gdata ≠ s.gdata → s.phase = .acq ∧ s.grantDraw = .granted)

/-- 10_state.md R41: no step changes `POLICY` or the constants table. -/
def Obligations.ConfigurationNeverChanges : Prop :=
  ∀ s t : State, step s = .next t → t.cfg = s.cfg

/-- One step makes at most one port access or acquire, and a sleep only after a status read of a wait; the trace only grows
(00_scope.md R10, R11; 20_memory.md R61). -/
def Obligations.StepMakesAtMostOneAccess : Prop :=
  ∀ s t : State, step s = .next t →
    t.trace = s.trace ∨
    (∃ e, e ≠ .sleep ∧ t.trace = s.trace ++ [e]) ∨
    (∃ x v, s.phase = .wait x ∧ t.trace = s.trace ++ [.ioRead .sc v, .sleep])

/-- No port is touched without both grants (40_port_access.md R91; 60_exceptions.md R190). -/
def Obligations.NoPortEventWithoutBothGrants : Prop :=
  ∀ s t : State, Consistent s → step s = .next t → portEvents t.trace ≠ portEvents s.trace → s.gsc = true ∧ s.gdata = true

/-- 10_state.md R21: the phase codes are the table's, and name each 4-bit value once. -/
def Obligations.PhaseCodesNameEveryValueOnce : Prop :=
  (∀ c : BitVec 4, ∃ ph, phaseCode ph = c) ∧ (∀ p q, phaseCode p = phaseCode q → p = q) ∧
  [Phase.idle, .acq, .ior, .iow, .wait .poll, .wait .w1, .txCmd, .wait .w2, .txAddr, .wait .wObf, .rxData, .wait .w3, .txVal,
    .wait .w4, .done, .failed].map (fun p => (phaseCode p).toNat) = List.range 16

/-! ## Collect and the Host -/

/-- 10_state.md R28: `collect` returns `(outcome, RES, ERR, IGN)` and goes to IDLE, with every register and both grants as they
were. The Host's queue is the Host's: that the CLI Host's is emptied after a FAILED result is the model's choice (log 6). -/
def Obligations.CollectReturnsTheRecord : Prop :=
  ∀ s : State,
    (s.phase = .done → collect s = .next
      { s with phase := .idle, results := s.results ++ [{ outcome := .done, res := s.res, err := s.err, ign := s.ign }] }) ∧
    (s.phase = .failed → s.hostKind = .bench → collect s = .next
      { s with phase := .idle, results := s.results ++ [{ outcome := .failed, res := s.res, err := s.err, ign := s.ign }] }) ∧
    (s.phase = .failed → s.hostKind = .cli → collect s = .next
      { s with
        phase := .idle, hostQueue := []
        results := s.results ++ [{ outcome := .failed, res := s.res, err := s.err, ign := s.ign }] })

/-- Once the CLI Host has collected a FAILED result it issues nothing more: the run is at its end and no later step makes an event
(40_port_access.md R92; 43_host_sequences.md R167; 70_reset_and_hazards.md R205). That the Host collects at once and its queue is
emptied (log 6), and that every later step leaves the state as it is (log 7), are the model's choices. -/
def Obligations.CliStopsAfterAFailure : Prop :=
  ∀ s : State, s.cfg.wf = true → s.phase = .failed → s.hostKind = .cli →
    ∃ t, step s = .next t ∧ runEnded t = true ∧ t.trace = s.trace ∧ ∀ k, runSteps k t = .next t

/-- 43_host_sequences.md R153: both scaling laws, for every input. -/
def Obligations.ScalingRoundTrips : Prop :=
  (∀ r, r ≤ 255 → scaleUp (scaleDown r) ≤ r + 1 ∧ r ≤ scaleUp (scaleDown r) + 1) ∧
  (∀ p, p ≤ 100 → scaleDown (scaleUp p) = p)

/-- 43_host_sequences.md R156: 0 for 0, the truncating quotient otherwise, and its range on what two bytes can form. -/
def Obligations.RpmOfACount : Prop :=
  rpm 0 = 0 ∧ (∀ c, c ≠ 0 → rpm c = 2156220 / c) ∧ (∀ c, 1 ≤ c → c ≤ 65535 → 32 ≤ rpm c ∧ rpm c ≤ 2156220)

/-- 43_host_sequences.md R165: an argument not parseable or outside 0..100 issues no request, not even ACQUIRE, and reports a
VALIDATION error, one error line and `EXIT_FAIL` (R167, R171); any other issues the WRITE of its scaled value (R152), after the two
ACQUIREs of R166. That a failing `set` prints no line on the standard output is the model's choice (log 24). -/
def Obligations.SetIsValidatedBeforeAnyRequest : Prop :=
  ∀ (c : Config) (rs : List Collected),
    (∀ arg : Option Int, (∀ p, arg = some p → p < 0 ∨ 100 < p) →
      commandRequests c (.set arg) = [] ∧
      report c (.set arg) rs = { lines := [], error := some .validation, usage := false, exit := some c.exitFail }) ∧
    (∀ p : Nat, p ≤ 100 → commandRequests c (.set (some p)) =
      [.acquire .sc, .acquire .data, .write c.regDutyW (BitVec.ofNat 8 ((510 * p + 100) / 200))])

/-- `get` issues the two ACQUIREs and then the READs of exactly the selected readings, each once, in the fixed order, and of all four
with no selector, which is GET_ALL (43_host_sequences.md R160 to R164, R166). -/
def Obligations.GetIssuesTheFixedOrder : Prop :=
  ∀ (c : Config) (bare : Bool),
    (∀ cpu gpu duty rpms : Bool, (cpu = true ∨ gpu = true ∨ duty = true ∨ rpms = true) →
      commandRequests c (.get ⟨cpu, gpu, duty, rpms⟩ bare) = [.acquire .sc, .acquire .data]
        ++ (if cpu = true then [.read c.regCpuTemp] else [])
        ++ (if gpu = true then [.read c.regGpuTemp] else [])
        ++ (if duty = true then [.read c.regDutyR] else [])
        ++ (if rpms = true then [.read c.regRpmHi, .read c.regRpmLo] else [])) ∧
    commandRequests c (.get ⟨false, false, false, false⟩ bare) = [.acquire .sc, .acquire .data] ++ pseudoRequests c .getAll ∧
    pseudoRequests c .getAll = [.read c.regCpuTemp, .read c.regGpuTemp, .read c.regDutyR, .read c.regRpmHi, .read c.regRpmLo]

/-- A `get` whose first ACQUIRE is DENIED ends after three steps with no port event and no line, one PERMISSION error and
`EXIT_FAIL` (43_host_sequences.md R166, R167; R168, which the spec infers from them; 70_reset_and_hazards.md R203). That the Host
collects at once and its queue is emptied (log 6), and that the run then stays as it is (log 7), are the model's choices. -/
def Obligations.GetWithoutPrivilegePrintsNothing : Prop :=
  ∀ (c : Config) (f : Selectors) (bare : Bool) (ds : List GrantDraw), c.wf = true →
    ∃ t, (∀ k, runSteps (3 + k) { invocation c (.get f bare) with grantIn := .denied :: ds } = .next t) ∧
      runEnded t = true ∧ t.trace = [.acquire .sc .denied] ∧ t.gsc = false ∧ t.gdata = false ∧
      report c (.get f bare) t.results = { lines := [], error := some .permission, usage := false, exit := some c.exitFail }

/-- The source's end-to-end reading (R173, which the spec infers from 43_host_sequences.md R160 to R164 and R170): its report and its
lines of text, with labels and bare. -/
def Obligations.EndToEndReading : Prop :=
  ∀ c : Config,
    let ack : Collected := { outcome := .done, res := none, err := none, ign := 0#3 }
    let byte (b : Byte) : Collected := { outcome := .done, res := some b, err := none, ign := 0#3 }
    let all : Selectors := ⟨false, false, false, false⟩
    let collected : List Collected := [ack, ack, byte 45#8, byte 50#8, byte 128#8, byte 0x0B#8, byte 0xB8#8]
    combined 0x0B#8 0xB8#8 = 3000 ∧ rpm 3000 = 718 ∧ scaleDown 128 = 50 ∧
    (∀ bare, report c (.get all bare) collected =
      { lines := [⟨.cpuTemp, 45⟩, ⟨.gpuTemp, 50⟩, ⟨.fanDuty, 50⟩, ⟨.fanRpms, 718⟩], error := none, usage := false
        exit := some 0 }) ∧
    outputText (.get all false) (report c (.get all false) collected) =
      ["cpu-temp: 45", "gpu-temp: 50", "fan-duty: 50", "fan-rpms: 718"] ∧
    outputText (.get all true) (report c (.get all true) collected) = ["45", "50", "50", "718"]

/-! ## The assembler -/

/-- The words of 30_encoding.md R80, digit by digit: a statement in range gets the word written there, which decodes to its request; a
statement is refused exactly when an operand is out of range. That the assembler does not refuse a table that is not well formed, and
cuts a flag bit above 7 there, is the model's choice (log 12). -/
def Obligations.AssemblerAcceptsExactlyTheRanges : Prop :=
  ∀ c : Config,
    (assemble c (.acquire .sc) = some 0x100000#24 ∧ assemble c (.acquire .data) = some 0x110000#24 ∧
      assemble c (.inb .sc) = some 0x200000#24 ∧ assemble c (.inb .data) = some 0x210000#24) ∧
    (∀ v, v ≤ 255 → assemble c (.outb .sc v) = some (BitVec.ofNat 24 (0x300000 + v)) ∧
      assemble c (.outb .data v) = some (BitVec.ofNat 24 (0x310000 + v))) ∧
    (∀ b e, b ≤ 7 → e ≤ 1 → assemble c (.wait b e) = some (BitVec.ofNat 24 (0x400000 + 0x10000 * (e * 8 + b)))) ∧
    (∀ a, a ≤ 255 → assemble c (.read a) = some (BitVec.ofNat 24 (0x800000 + 0x100 * a))) ∧
    (∀ a v, a ≤ 255 → v ≤ 255 → assemble c (.write a v) = some (BitVec.ofNat 24 (0x900000 + 0x100 * a + v))) ∧
    ∀ st : Statement,
      (st.wf = true → ∃ w, assemble c st = some w ∧ decode w = .request (statementInstr c st)) ∧
      (assemble c st = none ↔
        (∃ p v, st = .outb p v ∧ 255 < v) ∨ (∃ b e, st = .wait b e ∧ (7 < b ∨ 1 < e)) ∨ (∃ a, st = .read a ∧ 255 < a) ∨
          (∃ a v, st = .write a v ∧ (255 < a ∨ 255 < v)))

/-- 30_encoding.md R81: the two block-level pseudo-instructions are the WAITs they stand for, and under the general-knowledge
defaults (a premise, not the hardware's values) assemble to the words given. -/
def Obligations.PseudoWaitsAreWaits : Prop :=
  (∀ c : Config, c.wf = true →
    assemble c .waitIbfClear = assemble c (.wait c.ibfBit 0) ∧ assemble c .waitObfSet = assemble c (.wait c.obfBit 1)) ∧
  (∀ c : Config, c.ibfBit = 1 → c.obfBit = 0 →
    assemble c .waitIbfClear = some 0x410000#24 ∧ assemble c .waitObfSet = some 0x480000#24)

/-! ## The reference EC (a test oracle, no claim about hardware: 92_eei_decisions.md D16) -/

/-- Under the reference EC a READ returns the register's byte and leaves the register space alone (42_transactions.md R120; 92 D16). Of
the seven steps the first is the issue from the Host's queue (log 5, 6). -/
def Obligations.ReferenceEcReadReturnsTheRegister : Prop :=
  ∀ (b : Bench) (a : Byte) (q : List RequestWord),
    b.machine.cfg.wf = true → b.machine.phase = .idle → b.machine.gsc = true → b.machine.gdata = true →
    b.machine.hostQueue = encode (.read a) :: q → b.ec.out = none →
    ∃ b', benchRun 7 b = .next b' ∧ b'.machine.phase = .done ∧ b'.machine.res = some (readByte a.toNat b.ec.reg) ∧
      b'.machine.ign = 0#3 ∧ b'.ec = { reg := b.ec.reg, mode := .idle, out := none } ∧ b'.machine.hostQueue = q

/-- Under the reference EC a WRITE followed by READs of any address: the slot written reads as the byte, every other slot as before
(92 D16; 95_test_vectors.md L3-P2). Sixteen steps: issue, seven, collect, issue, six (log 5, 6). -/
def Obligations.ReferenceEcReadAfterWrite : Prop :=
  ∀ (b : Bench) (a v a' : Byte) (q : List RequestWord),
    b.machine.cfg.wf = true → b.machine.cfg.cmdRead ≠ b.machine.cfg.cmdWrite → memoryWf b.ec.reg = true →
    b.machine.phase = .idle → b.machine.gsc = true → b.machine.gdata = true →
    b.machine.hostQueue = encode (.write a v) :: encode (.read a') :: q → b.ec.out = none →
    ∃ b', benchRun 16 b = .next b' ∧ b'.machine.phase = .done ∧
      b'.machine.res = some (if a' = a then v else readByte a'.toNat b.ec.reg) ∧ memoryWf b'.ec.reg = true
end

