-- ==== Sys2Proof/Laws/Memory.lean ====
section
/-! SUPPORT. The laws of the reference EC's memory: read after write, and every write keeps the canonical form. -/

namespace Sys2Proof.Machine

theorem memoryWf_cons (c : Host.Cell) (m : Memory) :
    memoryWf (c :: m) = true ↔ c.2 ≠ unlisted ∧ (∀ d ∈ m, c.1 < d.1) ∧ memoryWf m = true := by
  simp [memoryWf, and_assoc]

/-- A cell before a canonical memory of higher addresses leaves a canonical memory. -/
theorem memoryWf_consCell (a : Nat) (v : Byte) (m : Memory) (hm : memoryWf m = true) (ha : ∀ d ∈ m, a < d.1) :
    memoryWf (consCell a v m) = true := by
  unfold consCell
  split
  · exact hm
  · next h => exact (memoryWf_cons _ _).2 ⟨h, ha, hm⟩

/-- The addresses of a written memory are the old ones and the one written. -/
theorem writeByte_addresses (a : Nat) (v : Byte) (m : Memory) (d : Host.Cell) (h : d ∈ writeByte a v m) :
    d.1 = a ∨ ∃ e ∈ m, e.1 = d.1 := by
  induction m with
  | nil =>
    simp only [writeByte, consCell] at h
    split at h <;> simp_all
  | cons c m ih =>
    simp only [writeByte, consCell] at h
    split at h
    · split at h
      · exact .inr ⟨d, h, rfl⟩
      · rcases List.mem_cons.1 h with rfl | h
        · exact .inl rfl
        · exact .inr ⟨d, h, rfl⟩
    · split at h
      · split at h
        · exact .inr ⟨d, List.mem_cons_of_mem _ h, rfl⟩
        · rcases List.mem_cons.1 h with rfl | h
          · exact .inl rfl
          · exact .inr ⟨d, List.mem_cons_of_mem _ h, rfl⟩
      · rcases List.mem_cons.1 h with rfl | h
        · exact .inr ⟨_, List.mem_cons_self, rfl⟩
        · rcases ih h with h | ⟨e, he, h⟩
          · exact .inl h
          · exact .inr ⟨e, List.mem_cons_of_mem _ he, h⟩

/-- Every write keeps the canonical form. -/
theorem memoryWf_writeByte (a : Nat) (v : Byte) (m : Memory) (h : memoryWf m = true) : memoryWf (writeByte a v m) = true := by
  induction m with
  | nil => exact memoryWf_consCell a v [] rfl (by simp)
  | cons c m ih =>
    obtain ⟨hc, hlt, hm⟩ := (memoryWf_cons _ _).1 h
    simp only [writeByte]
    split
    · next ha =>
      refine memoryWf_consCell a v _ h fun d hd => ?_
      rcases List.mem_cons.1 hd with rfl | hd
      · exact ha
      · exact ha.trans (hlt d hd)
    · split
      · next ha => exact memoryWf_consCell a v m hm fun d hd => ha ▸ hlt d hd
      · next h1 h2 =>
        refine (memoryWf_cons _ _).2 ⟨hc, fun d hd => ?_, ih hm⟩
        rcases writeByte_addresses a v m d hd with h | ⟨e, he, h⟩
        · omega
        · exact h ▸ hlt e he

/-- An address below every listed one reads as unlisted. -/
theorem readByte_unlisted (a : Nat) (m : Memory) (h : ∀ d ∈ m, a ≠ d.1) : readByte a m = unlisted := by
  induction m with
  | nil => rfl
  | cons c m ih =>
    have hc := h c List.mem_cons_self
    simp only [readByte, if_neg (Ne.symm hc)]
    exact ih fun d hd => h d (List.mem_cons_of_mem _ hd)

theorem readByte_consCell (a : Nat) (v : Byte) (m : Memory) (hu : readByte a m = unlisted) : readByte a (consCell a v m) = v := by
  unfold consCell
  split
  · next h => exact hu.trans h.symm
  · simp [readByte]

theorem readByte_consCell_other (a b : Nat) (v : Byte) (m : Memory) (h : a ≠ b) : readByte b (consCell a v m) = readByte b m := by
  unfold consCell
  split
  · rfl
  · simp [readByte, h]

/-- A read after a write to the same address gives the byte written. -/
theorem readByte_writeByte_same (a : Nat) (v : Byte) (m : Memory) (h : memoryWf m = true) : readByte a (writeByte a v m) = v := by
  induction m with
  | nil => exact readByte_consCell a v [] rfl
  | cons c m ih =>
    obtain ⟨_, hlt, hm⟩ := (memoryWf_cons _ _).1 h
    simp only [writeByte]
    split
    · next ha =>
      refine readByte_consCell a v _ (readByte_unlisted _ _ fun d hd => ?_)
      rcases List.mem_cons.1 hd with rfl | hd
      · omega
      · have := hlt d hd; omega
    · split
      · next ha =>
        refine readByte_consCell a v m (readByte_unlisted _ _ fun d hd => ?_)
        have := hlt d hd; omega
      · next _ h2 => simp [readByte, Ne.symm h2, ih hm]

/-- A write leaves every other address alone. -/
theorem readByte_writeByte_other (a b : Nat) (v : Byte) (m : Memory) (h : a ≠ b) : readByte b (writeByte a v m) = readByte b m := by
  induction m with
  | nil => exact readByte_consCell_other a b v [] h
  | cons c m ih =>
    simp only [writeByte]
    split
    · exact readByte_consCell_other a b v _ h
    · split
      · next ha =>
        rw [readByte_consCell_other a b v m h]
        simp [readByte, show c.1 ≠ b by omega]
      · simp [readByte, ih]

/-- Every event keeps the reference EC's register space canonical. -/
theorem memoryWf_ecReact (c : Config) (ec : RefEc) (e : Event) (h : memoryWf ec.reg = true) :
    memoryWf (ecReact c ec e).reg = true := by
  cases e with
  | ioRead p v => cases p <;> exact h
  | acquire p d => exact h
  | sleep => exact h
  | ioWrite p v =>
    cases p with
    | sc => exact h
    | data =>
      simp only [ecReact, ecPayload]
      split
      · exact h
      · exact h
      · exact memoryWf_writeByte _ _ _ h
      · exact h

end Sys2Proof.Machine
end

