-- ==== Sys2Proof/Laws/State.lean ====
section
/-! SUPPORT. One lemma per field per update of State: later proofs never unfold an update. -/

namespace Sys2Proof.Machine

/-! ### `State.emit` -/

@[simp] theorem State.emit_phase (e : Event) (s : State) : (s.emit e).phase = s.phase := rfl
@[simp] theorem State.emit_op (e : Event) (s : State) : (s.emit e).op = s.op := rfl
@[simp] theorem State.emit_ps (e : Event) (s : State) : (s.emit e).ps = s.ps := rfl
@[simp] theorem State.emit_adr (e : Event) (s : State) : (s.emit e).adr = s.adr := rfl
@[simp] theorem State.emit_val (e : Event) (s : State) : (s.emit e).val = s.val := rfl
@[simp] theorem State.emit_wb (e : Event) (s : State) : (s.emit e).wb = s.wb := rfl
@[simp] theorem State.emit_we (e : Event) (s : State) : (s.emit e).we = s.we := rfl
@[simp] theorem State.emit_n (e : Event) (s : State) : (s.emit e).n = s.n := rfl
@[simp] theorem State.emit_st (e : Event) (s : State) : (s.emit e).st = s.st := rfl
@[simp] theorem State.emit_res (e : Event) (s : State) : (s.emit e).res = s.res := rfl
@[simp] theorem State.emit_err (e : Event) (s : State) : (s.emit e).err = s.err := rfl
@[simp] theorem State.emit_ign (e : Event) (s : State) : (s.emit e).ign = s.ign := rfl
@[simp] theorem State.emit_gsc (e : Event) (s : State) : (s.emit e).gsc = s.gsc := rfl
@[simp] theorem State.emit_gdata (e : Event) (s : State) : (s.emit e).gdata = s.gdata := rfl
@[simp] theorem State.emit_cfg (e : Event) (s : State) : (s.emit e).cfg = s.cfg := rfl
@[simp] theorem State.emit_trace (e : Event) (s : State) : (s.emit e).trace = s.trace ++ [e] := rfl
@[simp] theorem State.emit_results (e : Event) (s : State) : (s.emit e).results = s.results := rfl
@[simp] theorem State.emit_hostQueue (e : Event) (s : State) : (s.emit e).hostQueue = s.hostQueue := rfl
@[simp] theorem State.emit_hostKind (e : Event) (s : State) : (s.emit e).hostKind = s.hostKind := rfl
@[simp] theorem State.emit_statusIn (e : Event) (s : State) : (s.emit e).statusIn = s.statusIn := rfl
@[simp] theorem State.emit_dataIn (e : Event) (s : State) : (s.emit e).dataIn = s.dataIn := rfl
@[simp] theorem State.emit_grantIn (e : Event) (s : State) : (s.emit e).grantIn = s.grantIn := rfl
@[simp] theorem State.emit_draws (e : Event) (s : State) : (s.emit e).draws = s.draws := rfl

/-! ### `State.ioWrite` -/

@[simp] theorem State.ioWrite_phase (p : PortSel) (v : Byte) (s : State) : (s.ioWrite p v).phase = s.phase := rfl
@[simp] theorem State.ioWrite_op (p : PortSel) (v : Byte) (s : State) : (s.ioWrite p v).op = s.op := rfl
@[simp] theorem State.ioWrite_ps (p : PortSel) (v : Byte) (s : State) : (s.ioWrite p v).ps = s.ps := rfl
@[simp] theorem State.ioWrite_adr (p : PortSel) (v : Byte) (s : State) : (s.ioWrite p v).adr = s.adr := rfl
@[simp] theorem State.ioWrite_val (p : PortSel) (v : Byte) (s : State) : (s.ioWrite p v).val = s.val := rfl
@[simp] theorem State.ioWrite_wb (p : PortSel) (v : Byte) (s : State) : (s.ioWrite p v).wb = s.wb := rfl
@[simp] theorem State.ioWrite_we (p : PortSel) (v : Byte) (s : State) : (s.ioWrite p v).we = s.we := rfl
@[simp] theorem State.ioWrite_n (p : PortSel) (v : Byte) (s : State) : (s.ioWrite p v).n = s.n := rfl
@[simp] theorem State.ioWrite_st (p : PortSel) (v : Byte) (s : State) : (s.ioWrite p v).st = s.st := rfl
@[simp] theorem State.ioWrite_res (p : PortSel) (v : Byte) (s : State) : (s.ioWrite p v).res = s.res := rfl
@[simp] theorem State.ioWrite_err (p : PortSel) (v : Byte) (s : State) : (s.ioWrite p v).err = s.err := rfl
@[simp] theorem State.ioWrite_ign (p : PortSel) (v : Byte) (s : State) : (s.ioWrite p v).ign = s.ign := rfl
@[simp] theorem State.ioWrite_gsc (p : PortSel) (v : Byte) (s : State) : (s.ioWrite p v).gsc = s.gsc := rfl
@[simp] theorem State.ioWrite_gdata (p : PortSel) (v : Byte) (s : State) : (s.ioWrite p v).gdata = s.gdata := rfl
@[simp] theorem State.ioWrite_cfg (p : PortSel) (v : Byte) (s : State) : (s.ioWrite p v).cfg = s.cfg := rfl
@[simp] theorem State.ioWrite_trace (p : PortSel) (v : Byte) (s : State) : (s.ioWrite p v).trace = s.trace ++ [.ioWrite p v] := rfl
@[simp] theorem State.ioWrite_results (p : PortSel) (v : Byte) (s : State) : (s.ioWrite p v).results = s.results := rfl
@[simp] theorem State.ioWrite_hostQueue (p : PortSel) (v : Byte) (s : State) : (s.ioWrite p v).hostQueue = s.hostQueue := rfl
@[simp] theorem State.ioWrite_hostKind (p : PortSel) (v : Byte) (s : State) : (s.ioWrite p v).hostKind = s.hostKind := rfl
@[simp] theorem State.ioWrite_statusIn (p : PortSel) (v : Byte) (s : State) : (s.ioWrite p v).statusIn = s.statusIn := rfl
@[simp] theorem State.ioWrite_dataIn (p : PortSel) (v : Byte) (s : State) : (s.ioWrite p v).dataIn = s.dataIn := rfl
@[simp] theorem State.ioWrite_grantIn (p : PortSel) (v : Byte) (s : State) : (s.ioWrite p v).grantIn = s.grantIn := rfl
@[simp] theorem State.ioWrite_draws (p : PortSel) (v : Byte) (s : State) : (s.ioWrite p v).draws = s.draws := rfl

/-! ### `State.sleep` -/

@[simp] theorem State.sleep_phase (s : State) : (s.sleep).phase = s.phase := rfl
@[simp] theorem State.sleep_op (s : State) : (s.sleep).op = s.op := rfl
@[simp] theorem State.sleep_ps (s : State) : (s.sleep).ps = s.ps := rfl
@[simp] theorem State.sleep_adr (s : State) : (s.sleep).adr = s.adr := rfl
@[simp] theorem State.sleep_val (s : State) : (s.sleep).val = s.val := rfl
@[simp] theorem State.sleep_wb (s : State) : (s.sleep).wb = s.wb := rfl
@[simp] theorem State.sleep_we (s : State) : (s.sleep).we = s.we := rfl
@[simp] theorem State.sleep_n (s : State) : (s.sleep).n = s.n := rfl
@[simp] theorem State.sleep_st (s : State) : (s.sleep).st = s.st := rfl
@[simp] theorem State.sleep_res (s : State) : (s.sleep).res = s.res := rfl
@[simp] theorem State.sleep_err (s : State) : (s.sleep).err = s.err := rfl
@[simp] theorem State.sleep_ign (s : State) : (s.sleep).ign = s.ign := rfl
@[simp] theorem State.sleep_gsc (s : State) : (s.sleep).gsc = s.gsc := rfl
@[simp] theorem State.sleep_gdata (s : State) : (s.sleep).gdata = s.gdata := rfl
@[simp] theorem State.sleep_cfg (s : State) : (s.sleep).cfg = s.cfg := rfl
@[simp] theorem State.sleep_trace (s : State) : (s.sleep).trace = s.trace ++ [.sleep] := rfl
@[simp] theorem State.sleep_results (s : State) : (s.sleep).results = s.results := rfl
@[simp] theorem State.sleep_hostQueue (s : State) : (s.sleep).hostQueue = s.hostQueue := rfl
@[simp] theorem State.sleep_hostKind (s : State) : (s.sleep).hostKind = s.hostKind := rfl
@[simp] theorem State.sleep_statusIn (s : State) : (s.sleep).statusIn = s.statusIn := rfl
@[simp] theorem State.sleep_dataIn (s : State) : (s.sleep).dataIn = s.dataIn := rfl
@[simp] theorem State.sleep_grantIn (s : State) : (s.sleep).grantIn = s.grantIn := rfl
@[simp] theorem State.sleep_draws (s : State) : (s.sleep).draws = s.draws := rfl

/-! ### `State.ioRead` -/

@[simp] theorem State.ioRead_phase (p : PortSel) (s : State) : (s.ioRead p).phase = s.phase := by cases p <;> rfl
@[simp] theorem State.ioRead_op (p : PortSel) (s : State) : (s.ioRead p).op = s.op := by cases p <;> rfl
@[simp] theorem State.ioRead_ps (p : PortSel) (s : State) : (s.ioRead p).ps = s.ps := by cases p <;> rfl
@[simp] theorem State.ioRead_adr (p : PortSel) (s : State) : (s.ioRead p).adr = s.adr := by cases p <;> rfl
@[simp] theorem State.ioRead_val (p : PortSel) (s : State) : (s.ioRead p).val = s.val := by cases p <;> rfl
@[simp] theorem State.ioRead_wb (p : PortSel) (s : State) : (s.ioRead p).wb = s.wb := by cases p <;> rfl
@[simp] theorem State.ioRead_we (p : PortSel) (s : State) : (s.ioRead p).we = s.we := by cases p <;> rfl
@[simp] theorem State.ioRead_n (p : PortSel) (s : State) : (s.ioRead p).n = s.n := by cases p <;> rfl
@[simp] theorem State.ioRead_st (p : PortSel) (s : State) : (s.ioRead p).st = s.st := by cases p <;> rfl
@[simp] theorem State.ioRead_res (p : PortSel) (s : State) : (s.ioRead p).res = s.res := by cases p <;> rfl
@[simp] theorem State.ioRead_err (p : PortSel) (s : State) : (s.ioRead p).err = s.err := by cases p <;> rfl
@[simp] theorem State.ioRead_ign (p : PortSel) (s : State) : (s.ioRead p).ign = s.ign := by cases p <;> rfl
@[simp] theorem State.ioRead_gsc (p : PortSel) (s : State) : (s.ioRead p).gsc = s.gsc := by cases p <;> rfl
@[simp] theorem State.ioRead_gdata (p : PortSel) (s : State) : (s.ioRead p).gdata = s.gdata := by cases p <;> rfl
@[simp] theorem State.ioRead_cfg (p : PortSel) (s : State) : (s.ioRead p).cfg = s.cfg := by cases p <;> rfl
@[simp] theorem State.ioRead_trace (p : PortSel) (s : State) : (s.ioRead p).trace = s.trace ++ [.ioRead p (s.answer p)] := by cases p <;> rfl
@[simp] theorem State.ioRead_results (p : PortSel) (s : State) : (s.ioRead p).results = s.results := by cases p <;> rfl
@[simp] theorem State.ioRead_hostQueue (p : PortSel) (s : State) : (s.ioRead p).hostQueue = s.hostQueue := by cases p <;> rfl
@[simp] theorem State.ioRead_hostKind (p : PortSel) (s : State) : (s.ioRead p).hostKind = s.hostKind := by cases p <;> rfl
@[simp] theorem State.ioRead_grantIn (p : PortSel) (s : State) : (s.ioRead p).grantIn = s.grantIn := by cases p <;> rfl
@[simp] theorem State.ioRead_draws (p : PortSel) (s : State) : (s.ioRead p).draws = s.draws + 1 := by cases p <;> rfl

/-! ### `State.acquireDraw` -/

@[simp] theorem State.acquireDraw_phase (p : PortSel) (s : State) : (s.acquireDraw p).phase = s.phase := rfl
@[simp] theorem State.acquireDraw_op (p : PortSel) (s : State) : (s.acquireDraw p).op = s.op := rfl
@[simp] theorem State.acquireDraw_ps (p : PortSel) (s : State) : (s.acquireDraw p).ps = s.ps := rfl
@[simp] theorem State.acquireDraw_adr (p : PortSel) (s : State) : (s.acquireDraw p).adr = s.adr := rfl
@[simp] theorem State.acquireDraw_val (p : PortSel) (s : State) : (s.acquireDraw p).val = s.val := rfl
@[simp] theorem State.acquireDraw_wb (p : PortSel) (s : State) : (s.acquireDraw p).wb = s.wb := rfl
@[simp] theorem State.acquireDraw_we (p : PortSel) (s : State) : (s.acquireDraw p).we = s.we := rfl
@[simp] theorem State.acquireDraw_n (p : PortSel) (s : State) : (s.acquireDraw p).n = s.n := rfl
@[simp] theorem State.acquireDraw_st (p : PortSel) (s : State) : (s.acquireDraw p).st = s.st := rfl
@[simp] theorem State.acquireDraw_res (p : PortSel) (s : State) : (s.acquireDraw p).res = s.res := rfl
@[simp] theorem State.acquireDraw_err (p : PortSel) (s : State) : (s.acquireDraw p).err = s.err := rfl
@[simp] theorem State.acquireDraw_ign (p : PortSel) (s : State) : (s.acquireDraw p).ign = s.ign := rfl
@[simp] theorem State.acquireDraw_gsc (p : PortSel) (s : State) : (s.acquireDraw p).gsc = s.gsc := rfl
@[simp] theorem State.acquireDraw_gdata (p : PortSel) (s : State) : (s.acquireDraw p).gdata = s.gdata := rfl
@[simp] theorem State.acquireDraw_cfg (p : PortSel) (s : State) : (s.acquireDraw p).cfg = s.cfg := rfl
@[simp] theorem State.acquireDraw_trace (p : PortSel) (s : State) : (s.acquireDraw p).trace = s.trace ++ [.acquire p s.grantDraw] := rfl
@[simp] theorem State.acquireDraw_results (p : PortSel) (s : State) : (s.acquireDraw p).results = s.results := rfl
@[simp] theorem State.acquireDraw_hostQueue (p : PortSel) (s : State) : (s.acquireDraw p).hostQueue = s.hostQueue := rfl
@[simp] theorem State.acquireDraw_hostKind (p : PortSel) (s : State) : (s.acquireDraw p).hostKind = s.hostKind := rfl
@[simp] theorem State.acquireDraw_statusIn (p : PortSel) (s : State) : (s.acquireDraw p).statusIn = s.statusIn := rfl
@[simp] theorem State.acquireDraw_dataIn (p : PortSel) (s : State) : (s.acquireDraw p).dataIn = s.dataIn := rfl
@[simp] theorem State.acquireDraw_grantIn (p : PortSel) (s : State) : (s.acquireDraw p).grantIn = s.grantIn.tail := rfl
@[simp] theorem State.acquireDraw_draws (p : PortSel) (s : State) : (s.acquireDraw p).draws = s.draws + 1 := rfl

/-! ### `State.finish` -/

@[simp] theorem State.finish_phase (s : State) : (s.finish).phase = .done := rfl
@[simp] theorem State.finish_op (s : State) : (s.finish).op = s.op := rfl
@[simp] theorem State.finish_ps (s : State) : (s.finish).ps = s.ps := rfl
@[simp] theorem State.finish_adr (s : State) : (s.finish).adr = s.adr := rfl
@[simp] theorem State.finish_val (s : State) : (s.finish).val = s.val := rfl
@[simp] theorem State.finish_wb (s : State) : (s.finish).wb = s.wb := rfl
@[simp] theorem State.finish_we (s : State) : (s.finish).we = s.we := rfl
@[simp] theorem State.finish_n (s : State) : (s.finish).n = s.n := rfl
@[simp] theorem State.finish_st (s : State) : (s.finish).st = s.st := rfl
@[simp] theorem State.finish_res (s : State) : (s.finish).res = s.res := rfl
@[simp] theorem State.finish_err (s : State) : (s.finish).err = s.err := rfl
@[simp] theorem State.finish_ign (s : State) : (s.finish).ign = s.ign := rfl
@[simp] theorem State.finish_gsc (s : State) : (s.finish).gsc = s.gsc := rfl
@[simp] theorem State.finish_gdata (s : State) : (s.finish).gdata = s.gdata := rfl
@[simp] theorem State.finish_cfg (s : State) : (s.finish).cfg = s.cfg := rfl
@[simp] theorem State.finish_trace (s : State) : (s.finish).trace = s.trace := rfl
@[simp] theorem State.finish_results (s : State) : (s.finish).results = s.results := rfl
@[simp] theorem State.finish_hostQueue (s : State) : (s.finish).hostQueue = s.hostQueue := rfl
@[simp] theorem State.finish_hostKind (s : State) : (s.finish).hostKind = s.hostKind := rfl
@[simp] theorem State.finish_statusIn (s : State) : (s.finish).statusIn = s.statusIn := rfl
@[simp] theorem State.finish_dataIn (s : State) : (s.finish).dataIn = s.dataIn := rfl
@[simp] theorem State.finish_grantIn (s : State) : (s.finish).grantIn = s.grantIn := rfl
@[simp] theorem State.finish_draws (s : State) : (s.finish).draws = s.draws := rfl

/-! ### `State.raise` -/

@[simp] theorem State.raise_phase (e : ErrRecord) (s : State) : (s.raise e).phase = .failed := rfl
@[simp] theorem State.raise_op (e : ErrRecord) (s : State) : (s.raise e).op = s.op := rfl
@[simp] theorem State.raise_ps (e : ErrRecord) (s : State) : (s.raise e).ps = s.ps := rfl
@[simp] theorem State.raise_adr (e : ErrRecord) (s : State) : (s.raise e).adr = s.adr := rfl
@[simp] theorem State.raise_val (e : ErrRecord) (s : State) : (s.raise e).val = s.val := rfl
@[simp] theorem State.raise_wb (e : ErrRecord) (s : State) : (s.raise e).wb = s.wb := rfl
@[simp] theorem State.raise_we (e : ErrRecord) (s : State) : (s.raise e).we = s.we := rfl
@[simp] theorem State.raise_n (e : ErrRecord) (s : State) : (s.raise e).n = s.n := rfl
@[simp] theorem State.raise_st (e : ErrRecord) (s : State) : (s.raise e).st = s.st := rfl
@[simp] theorem State.raise_res (e : ErrRecord) (s : State) : (s.raise e).res = s.res := rfl
@[simp] theorem State.raise_err (e : ErrRecord) (s : State) : (s.raise e).err = some e := rfl
@[simp] theorem State.raise_ign (e : ErrRecord) (s : State) : (s.raise e).ign = s.ign := rfl
@[simp] theorem State.raise_gsc (e : ErrRecord) (s : State) : (s.raise e).gsc = s.gsc := rfl
@[simp] theorem State.raise_gdata (e : ErrRecord) (s : State) : (s.raise e).gdata = s.gdata := rfl
@[simp] theorem State.raise_cfg (e : ErrRecord) (s : State) : (s.raise e).cfg = s.cfg := rfl
@[simp] theorem State.raise_trace (e : ErrRecord) (s : State) : (s.raise e).trace = s.trace := rfl
@[simp] theorem State.raise_results (e : ErrRecord) (s : State) : (s.raise e).results = s.results := rfl
@[simp] theorem State.raise_hostQueue (e : ErrRecord) (s : State) : (s.raise e).hostQueue = s.hostQueue := rfl
@[simp] theorem State.raise_hostKind (e : ErrRecord) (s : State) : (s.raise e).hostKind = s.hostKind := rfl
@[simp] theorem State.raise_statusIn (e : ErrRecord) (s : State) : (s.raise e).statusIn = s.statusIn := rfl
@[simp] theorem State.raise_dataIn (e : ErrRecord) (s : State) : (s.raise e).dataIn = s.dataIn := rfl
@[simp] theorem State.raise_grantIn (e : ErrRecord) (s : State) : (s.raise e).grantIn = s.grantIn := rfl
@[simp] theorem State.raise_draws (e : ErrRecord) (s : State) : (s.raise e).draws = s.draws := rfl

/-! ### `State.clearRequest` -/

@[simp] theorem State.clearRequest_phase (s : State) : (s.clearRequest).phase = s.phase := rfl
@[simp] theorem State.clearRequest_op (s : State) : (s.clearRequest).op = s.op := rfl
@[simp] theorem State.clearRequest_ps (s : State) : (s.clearRequest).ps = s.ps := rfl
@[simp] theorem State.clearRequest_adr (s : State) : (s.clearRequest).adr = s.adr := rfl
@[simp] theorem State.clearRequest_val (s : State) : (s.clearRequest).val = s.val := rfl
@[simp] theorem State.clearRequest_wb (s : State) : (s.clearRequest).wb = s.wb := rfl
@[simp] theorem State.clearRequest_we (s : State) : (s.clearRequest).we = s.we := rfl
@[simp] theorem State.clearRequest_n (s : State) : (s.clearRequest).n = 0 := rfl
@[simp] theorem State.clearRequest_st (s : State) : (s.clearRequest).st = none := rfl
@[simp] theorem State.clearRequest_res (s : State) : (s.clearRequest).res = none := rfl
@[simp] theorem State.clearRequest_err (s : State) : (s.clearRequest).err = none := rfl
@[simp] theorem State.clearRequest_ign (s : State) : (s.clearRequest).ign = 0#3 := rfl
@[simp] theorem State.clearRequest_gsc (s : State) : (s.clearRequest).gsc = s.gsc := rfl
@[simp] theorem State.clearRequest_gdata (s : State) : (s.clearRequest).gdata = s.gdata := rfl
@[simp] theorem State.clearRequest_cfg (s : State) : (s.clearRequest).cfg = s.cfg := rfl
@[simp] theorem State.clearRequest_trace (s : State) : (s.clearRequest).trace = s.trace := rfl
@[simp] theorem State.clearRequest_results (s : State) : (s.clearRequest).results = s.results := rfl
@[simp] theorem State.clearRequest_hostQueue (s : State) : (s.clearRequest).hostQueue = s.hostQueue := rfl
@[simp] theorem State.clearRequest_hostKind (s : State) : (s.clearRequest).hostKind = s.hostKind := rfl
@[simp] theorem State.clearRequest_statusIn (s : State) : (s.clearRequest).statusIn = s.statusIn := rfl
@[simp] theorem State.clearRequest_dataIn (s : State) : (s.clearRequest).dataIn = s.dataIn := rfl
@[simp] theorem State.clearRequest_grantIn (s : State) : (s.clearRequest).grantIn = s.grantIn := rfl
@[simp] theorem State.clearRequest_draws (s : State) : (s.clearRequest).draws = s.draws := rfl

/-! ### `State.latch` -/

@[simp] theorem State.latch_phase (i : Instr) (s : State) : (s.latch i).phase = s.phase := rfl
@[simp] theorem State.latch_op (i : Instr) (s : State) : (s.latch i).op = some i.op := rfl
@[simp] theorem State.latch_ps (i : Instr) (s : State) : (s.latch i).ps = latchedPs i := rfl
@[simp] theorem State.latch_adr (i : Instr) (s : State) : (s.latch i).adr = latchedAdr i := rfl
@[simp] theorem State.latch_val (i : Instr) (s : State) : (s.latch i).val = latchedVal i := rfl
@[simp] theorem State.latch_wb (i : Instr) (s : State) : (s.latch i).wb = latchedWb i := rfl
@[simp] theorem State.latch_we (i : Instr) (s : State) : (s.latch i).we = latchedWe i := rfl
@[simp] theorem State.latch_n (i : Instr) (s : State) : (s.latch i).n = s.n := rfl
@[simp] theorem State.latch_st (i : Instr) (s : State) : (s.latch i).st = s.st := rfl
@[simp] theorem State.latch_res (i : Instr) (s : State) : (s.latch i).res = s.res := rfl
@[simp] theorem State.latch_err (i : Instr) (s : State) : (s.latch i).err = s.err := rfl
@[simp] theorem State.latch_ign (i : Instr) (s : State) : (s.latch i).ign = s.ign := rfl
@[simp] theorem State.latch_gsc (i : Instr) (s : State) : (s.latch i).gsc = s.gsc := rfl
@[simp] theorem State.latch_gdata (i : Instr) (s : State) : (s.latch i).gdata = s.gdata := rfl
@[simp] theorem State.latch_cfg (i : Instr) (s : State) : (s.latch i).cfg = s.cfg := rfl
@[simp] theorem State.latch_trace (i : Instr) (s : State) : (s.latch i).trace = s.trace := rfl
@[simp] theorem State.latch_results (i : Instr) (s : State) : (s.latch i).results = s.results := rfl
@[simp] theorem State.latch_hostQueue (i : Instr) (s : State) : (s.latch i).hostQueue = s.hostQueue := rfl
@[simp] theorem State.latch_hostKind (i : Instr) (s : State) : (s.latch i).hostKind = s.hostKind := rfl
@[simp] theorem State.latch_statusIn (i : Instr) (s : State) : (s.latch i).statusIn = s.statusIn := rfl
@[simp] theorem State.latch_dataIn (i : Instr) (s : State) : (s.latch i).dataIn = s.dataIn := rfl
@[simp] theorem State.latch_grantIn (i : Instr) (s : State) : (s.latch i).grantIn = s.grantIn := rfl
@[simp] theorem State.latch_draws (i : Instr) (s : State) : (s.latch i).draws = s.draws := rfl

/-! ### `State.grant` -/

@[simp] theorem State.grant_phase (p : PortSel) (s : State) : (s.grant p).phase = s.phase := by cases p <;> rfl
@[simp] theorem State.grant_op (p : PortSel) (s : State) : (s.grant p).op = s.op := by cases p <;> rfl
@[simp] theorem State.grant_ps (p : PortSel) (s : State) : (s.grant p).ps = s.ps := by cases p <;> rfl
@[simp] theorem State.grant_adr (p : PortSel) (s : State) : (s.grant p).adr = s.adr := by cases p <;> rfl
@[simp] theorem State.grant_val (p : PortSel) (s : State) : (s.grant p).val = s.val := by cases p <;> rfl
@[simp] theorem State.grant_wb (p : PortSel) (s : State) : (s.grant p).wb = s.wb := by cases p <;> rfl
@[simp] theorem State.grant_we (p : PortSel) (s : State) : (s.grant p).we = s.we := by cases p <;> rfl
@[simp] theorem State.grant_n (p : PortSel) (s : State) : (s.grant p).n = s.n := by cases p <;> rfl
@[simp] theorem State.grant_st (p : PortSel) (s : State) : (s.grant p).st = s.st := by cases p <;> rfl
@[simp] theorem State.grant_res (p : PortSel) (s : State) : (s.grant p).res = s.res := by cases p <;> rfl
@[simp] theorem State.grant_err (p : PortSel) (s : State) : (s.grant p).err = s.err := by cases p <;> rfl
@[simp] theorem State.grant_ign (p : PortSel) (s : State) : (s.grant p).ign = s.ign := by cases p <;> rfl
@[simp] theorem State.grant_cfg (p : PortSel) (s : State) : (s.grant p).cfg = s.cfg := by cases p <;> rfl
@[simp] theorem State.grant_trace (p : PortSel) (s : State) : (s.grant p).trace = s.trace := by cases p <;> rfl
@[simp] theorem State.grant_results (p : PortSel) (s : State) : (s.grant p).results = s.results := by cases p <;> rfl
@[simp] theorem State.grant_hostQueue (p : PortSel) (s : State) : (s.grant p).hostQueue = s.hostQueue := by cases p <;> rfl
@[simp] theorem State.grant_hostKind (p : PortSel) (s : State) : (s.grant p).hostKind = s.hostKind := by cases p <;> rfl
@[simp] theorem State.grant_statusIn (p : PortSel) (s : State) : (s.grant p).statusIn = s.statusIn := by cases p <;> rfl
@[simp] theorem State.grant_dataIn (p : PortSel) (s : State) : (s.grant p).dataIn = s.dataIn := by cases p <;> rfl
@[simp] theorem State.grant_grantIn (p : PortSel) (s : State) : (s.grant p).grantIn = s.grantIn := by cases p <;> rfl
@[simp] theorem State.grant_draws (p : PortSel) (s : State) : (s.grant p).draws = s.draws := by cases p <;> rfl

/-! ### `State.enter` -/

@[simp] theorem State.enter_phase (ph : Phase) (s : State) : (s.enter ph).phase = ph := by
  unfold State.enter; (repeat' split) <;> rfl
@[simp] theorem State.enter_op (ph : Phase) (s : State) : (s.enter ph).op = s.op := by
  unfold State.enter; (repeat' split) <;> rfl
@[simp] theorem State.enter_ps (ph : Phase) (s : State) : (s.enter ph).ps = s.ps := by
  unfold State.enter; (repeat' split) <;> rfl
@[simp] theorem State.enter_adr (ph : Phase) (s : State) : (s.enter ph).adr = s.adr := by
  unfold State.enter; (repeat' split) <;> rfl
@[simp] theorem State.enter_val (ph : Phase) (s : State) : (s.enter ph).val = s.val := by
  unfold State.enter; (repeat' split) <;> rfl
@[simp] theorem State.enter_n (ph : Phase) (s : State) : (s.enter ph).n = 0 := by
  unfold State.enter; (repeat' split) <;> rfl
@[simp] theorem State.enter_st (ph : Phase) (s : State) : (s.enter ph).st = s.st := by
  unfold State.enter; (repeat' split) <;> rfl
@[simp] theorem State.enter_res (ph : Phase) (s : State) : (s.enter ph).res = s.res := by
  unfold State.enter; (repeat' split) <;> rfl
@[simp] theorem State.enter_err (ph : Phase) (s : State) : (s.enter ph).err = s.err := by
  unfold State.enter; (repeat' split) <;> rfl
@[simp] theorem State.enter_ign (ph : Phase) (s : State) : (s.enter ph).ign = s.ign := by
  unfold State.enter; (repeat' split) <;> rfl
@[simp] theorem State.enter_gsc (ph : Phase) (s : State) : (s.enter ph).gsc = s.gsc := by
  unfold State.enter; (repeat' split) <;> rfl
@[simp] theorem State.enter_gdata (ph : Phase) (s : State) : (s.enter ph).gdata = s.gdata := by
  unfold State.enter; (repeat' split) <;> rfl
@[simp] theorem State.enter_cfg (ph : Phase) (s : State) : (s.enter ph).cfg = s.cfg := by
  unfold State.enter; (repeat' split) <;> rfl
@[simp] theorem State.enter_trace (ph : Phase) (s : State) : (s.enter ph).trace = s.trace := by
  unfold State.enter; (repeat' split) <;> rfl
@[simp] theorem State.enter_results (ph : Phase) (s : State) : (s.enter ph).results = s.results := by
  unfold State.enter; (repeat' split) <;> rfl
@[simp] theorem State.enter_hostQueue (ph : Phase) (s : State) : (s.enter ph).hostQueue = s.hostQueue := by
  unfold State.enter; (repeat' split) <;> rfl
@[simp] theorem State.enter_hostKind (ph : Phase) (s : State) : (s.enter ph).hostKind = s.hostKind := by
  unfold State.enter; (repeat' split) <;> rfl
@[simp] theorem State.enter_statusIn (ph : Phase) (s : State) : (s.enter ph).statusIn = s.statusIn := by
  unfold State.enter; (repeat' split) <;> rfl
@[simp] theorem State.enter_dataIn (ph : Phase) (s : State) : (s.enter ph).dataIn = s.dataIn := by
  unfold State.enter; (repeat' split) <;> rfl
@[simp] theorem State.enter_grantIn (ph : Phase) (s : State) : (s.enter ph).grantIn = s.grantIn := by
  unfold State.enter; (repeat' split) <;> rfl
@[simp] theorem State.enter_draws (ph : Phase) (s : State) : (s.enter ph).draws = s.draws := by
  unfold State.enter; (repeat' split) <;> rfl

/-! ### `State.collected` -/

@[simp] theorem State.collected_phase (o : Ending) (s : State) : (s.collected o).phase = .idle := rfl
@[simp] theorem State.collected_op (o : Ending) (s : State) : (s.collected o).op = s.op := rfl
@[simp] theorem State.collected_ps (o : Ending) (s : State) : (s.collected o).ps = s.ps := rfl
@[simp] theorem State.collected_adr (o : Ending) (s : State) : (s.collected o).adr = s.adr := rfl
@[simp] theorem State.collected_val (o : Ending) (s : State) : (s.collected o).val = s.val := rfl
@[simp] theorem State.collected_wb (o : Ending) (s : State) : (s.collected o).wb = s.wb := rfl
@[simp] theorem State.collected_we (o : Ending) (s : State) : (s.collected o).we = s.we := rfl
@[simp] theorem State.collected_n (o : Ending) (s : State) : (s.collected o).n = s.n := rfl
@[simp] theorem State.collected_st (o : Ending) (s : State) : (s.collected o).st = s.st := rfl
@[simp] theorem State.collected_res (o : Ending) (s : State) : (s.collected o).res = s.res := rfl
@[simp] theorem State.collected_err (o : Ending) (s : State) : (s.collected o).err = s.err := rfl
@[simp] theorem State.collected_ign (o : Ending) (s : State) : (s.collected o).ign = s.ign := rfl
@[simp] theorem State.collected_gsc (o : Ending) (s : State) : (s.collected o).gsc = s.gsc := rfl
@[simp] theorem State.collected_gdata (o : Ending) (s : State) : (s.collected o).gdata = s.gdata := rfl
@[simp] theorem State.collected_cfg (o : Ending) (s : State) : (s.collected o).cfg = s.cfg := rfl
@[simp] theorem State.collected_trace (o : Ending) (s : State) : (s.collected o).trace = s.trace := rfl
@[simp] theorem State.collected_results (o : Ending) (s : State) : (s.collected o).results = s.results ++ [s.resultRecord o] := rfl
@[simp] theorem State.collected_hostQueue (o : Ending) (s : State) : (s.collected o).hostQueue = queueAfter s.hostKind o s.hostQueue := rfl
@[simp] theorem State.collected_hostKind (o : Ending) (s : State) : (s.collected o).hostKind = s.hostKind := rfl
@[simp] theorem State.collected_statusIn (o : Ending) (s : State) : (s.collected o).statusIn = s.statusIn := rfl
@[simp] theorem State.collected_dataIn (o : Ending) (s : State) : (s.collected o).dataIn = s.dataIn := rfl
@[simp] theorem State.collected_grantIn (o : Ending) (s : State) : (s.collected o).grantIn = s.grantIn := rfl
@[simp] theorem State.collected_draws (o : Ending) (s : State) : (s.collected o).draws = s.draws := rfl

/-! ### The fields an update changes by case -/

@[simp] theorem State.ioRead_sc_statusIn (s : State) : (s.ioRead .sc).statusIn = s.statusIn.tail := rfl
@[simp] theorem State.ioRead_sc_dataIn (s : State) : (s.ioRead .sc).dataIn = s.dataIn := rfl
@[simp] theorem State.ioRead_data_statusIn (s : State) : (s.ioRead .data).statusIn = s.statusIn := rfl
@[simp] theorem State.ioRead_data_dataIn (s : State) : (s.ioRead .data).dataIn = s.dataIn.tail := rfl
@[simp] theorem State.grant_sc_gsc (s : State) : (s.grant .sc).gsc = true := rfl
@[simp] theorem State.grant_sc_gdata (s : State) : (s.grant .sc).gdata = s.gdata := rfl
@[simp] theorem State.grant_data_gsc (s : State) : (s.grant .data).gsc = s.gsc := rfl
@[simp] theorem State.grant_data_gdata (s : State) : (s.grant .data).gdata = true := rfl

/-- A wait of a transaction is entered with its own target (42_transactions.md R116). -/
theorem State.enter_wait_target (x : WaitPhase) (b : BitVec 3) (e : Bool) (s : State) (h : waitTarget s.cfg x = some (b, e)) :
    (s.enter (.wait x)).wb = some b ∧ (s.enter (.wait x)).we = some e := by
  simp [State.enter, h]

/-- POLL is entered with the target of the request. -/
@[simp] theorem State.enter_poll (s : State) : s.enter (.wait .poll) = { s with phase := .wait .poll, n := 0 } := rfl

/-- A phase that is no wait is entered with the target left as it is. -/
theorem State.enter_other (ph : Phase) (s : State) (h : ∀ x, ph ≠ .wait x) : s.enter ph = { s with phase := ph, n := 0 } := by
  cases ph <;> first | rfl | exact absurd rfl (h _)

/-! ### The answers of the oracles (10_state.md R36, R37) -/

@[simp] theorem State.answer_sc_cons (s : State) (v : Byte) (rest : List Byte) (h : s.statusIn = v :: rest) : s.answer .sc = v := by
  simp [State.answer, h]

@[simp] theorem State.answer_data_cons (s : State) (v : Byte) (rest : List Byte) (h : s.dataIn = v :: rest) : s.answer .data = v := by
  simp [State.answer, h]

@[simp] theorem State.grantDraw_cons (s : State) (d : GrantDraw) (rest : List GrantDraw) (h : s.grantIn = d :: rest) : s.grantDraw = d := by
  simp [State.grantDraw, h]

end Sys2Proof.Machine
end

