-- ==== Sys2Proof/Laws/Ops.lean ====
section
/-! SUPPORT. What each shared operation and the step can do, said once: later proofs cite these instead of unfolding. -/

namespace Sys2Proof.Machine

/-! ## Issue -/

/-- A request that needs no grant, or finds both held, is latched and enters its phase (30_encoding.md R77). -/
theorem State.issue_enters (i : Instr) (s : State) (h : needsGrants i = false ∨ s.bothGrants = true) :
    s.issue i = (s.clearRequest.latch i).enter (entryPhase i) := by
  unfold State.issue
  rcases h with h | h <;> simp [h]

/-- A request that finds a grant missing fails at once with PERMISSION (40_port_access.md R91). -/
theorem State.issue_denied (i : Instr) (s : State) (h : needsGrants i = true) (hg : s.bothGrants = false) :
    s.issue i = (s.clearRequest.latch i).raise (permissionRecord s.missingPort) := by
  simp [State.issue, h, hg]

/-- The two outcomes of an issue. -/
theorem State.issue_cases (i : Instr) (s : State) :
    ((needsGrants i = false ∨ s.bothGrants = true) ∧ s.issue i = (s.clearRequest.latch i).enter (entryPhase i)) ∨
      (needsGrants i = true ∧ s.bothGrants = false ∧
        s.issue i = (s.clearRequest.latch i).raise (permissionRecord s.missingPort)) := by
  cases hn : needsGrants i with
  | false => exact .inl ⟨.inl rfl, s.issue_enters i (.inl hn)⟩
  | true =>
    cases hg : s.bothGrants with
    | true => exact .inl ⟨.inr rfl, s.issue_enters i (.inr hg)⟩
    | false => exact .inr ⟨rfl, rfl, s.issue_denied i hn hg⟩

/-- What a request latches is the request in flight. -/
theorem inFlight_latch (i : Instr) (s : State) : inFlight (s.latch i) = some i := by
  cases i <;> rfl

/-- The request in flight is the one `OP` and its operand registers hold. -/
theorem inFlight_registers (s : State) (i : Instr) (h : inFlight s = some i) :
    s.op = some i.op ∧
      match i with
      | .acquire p => s.ps = some p
      | .inb p => s.ps = some p
      | .outb p v => s.ps = some p ∧ s.val = some v
      | .wait b e => s.wb = some b ∧ s.we = some e
      | .read a => s.adr = some a
      | .write a v => s.adr = some a ∧ s.val = some v := by
  unfold inFlight at h
  split at h
  · injection h
  · next ho =>
    obtain ⟨p, hp, rfl⟩ := Option.map_eq_some_iff.1 h
    exact ⟨ho, hp⟩
  · next ho =>
    obtain ⟨p, hp, rfl⟩ := Option.map_eq_some_iff.1 h
    exact ⟨ho, hp⟩
  · next ho =>
    obtain ⟨p, hp, h⟩ := Option.bind_eq_some_iff.1 h
    obtain ⟨v, hv, rfl⟩ := Option.map_eq_some_iff.1 h
    exact ⟨ho, hp, hv⟩
  · next ho =>
    obtain ⟨b, hb, h⟩ := Option.bind_eq_some_iff.1 h
    obtain ⟨e, he, rfl⟩ := Option.map_eq_some_iff.1 h
    exact ⟨ho, hb, he⟩
  · next ho =>
    obtain ⟨a, ha, rfl⟩ := Option.map_eq_some_iff.1 h
    exact ⟨ho, ha⟩
  · next ho =>
    obtain ⟨a, ha, h⟩ := Option.bind_eq_some_iff.1 h
    obtain ⟨v, hv, rfl⟩ := Option.map_eq_some_iff.1 h
    exact ⟨ho, ha, hv⟩

/-! ## The shape of one event of a request -/

/-- A phase that is not IDLE, DONE or FAILED has a request in flight. -/
theorem inProgress_of_ne (ph : Phase) (h1 : ph ≠ .idle) (h2 : ph ≠ .done) (h3 : ph ≠ .failed) : inProgress ph = true := by
  cases ph <;> first | rfl | contradiction


/-- In IDLE a request is issued. -/
theorem request_idle (i : Instr) (body : State → StepResult) (s : State) (h : s.phase = .idle) :
    request i body s = .next (s.issue i) := by
  simp [request, h]

/-- In flight, a request takes the Engine's step. -/
theorem request_inFlight (i : Instr) (body : State → StepResult) (s : State) (hp : inProgress s.phase = true)
    (hi : inFlight s = some i) : request i body s = body s := by
  unfold request
  cases hph : s.phase <;> simp_all [inProgress]

/-- A request answers a next state only by its issue in IDLE or by its step in flight. -/
theorem request_next (i : Instr) (body : State → StepResult) (s t : State) (h : request i body s = .next t) :
    (s.phase = .idle ∧ t = s.issue i) ∨ (inProgress s.phase = true ∧ inFlight s = some i ∧ body s = .next t) := by
  unfold request at h
  split at h
  · next hph =>
    injection h with h
    exact .inl ⟨hph, h.symm⟩
  · injection h
  · injection h
  · next h1 h2 h3 =>
    split at h
    · next hi => exact .inr ⟨inProgress_of_ne s.phase h1 h2 h3, hi, h⟩
    · injection h

/-! ## Waits -/

/-- The state after the read of one attempt (41_polling.md R102). -/
def State.afterRead (s : State) : State := { s.ioRead .sc with st := some (s.answer .sc) }

/-- An attempt whose bit matches succeeds. -/
theorem State.attempt_success (x : WaitPhase) (b : BitVec 3) (e : Bool) (s : State) (h : bitMatches (s.answer .sc) b e = true) :
    s.attempt x b e = { s.afterRead with n := 0 }.onSuccess x := by
  simp [State.attempt, State.afterRead, h]

/-- The failed attempt that is number `POLL_LIMIT` is the timeout. -/
theorem State.attempt_timeout (x : WaitPhase) (b : BitVec 3) (e : Bool) (s : State) (h : bitMatches (s.answer .sc) b e = false)
    (hn : s.n + 1 = Config.pollLimit) : s.attempt x b e = { s.afterRead with n := 0 }.onTimeout x := by
  simp [State.attempt, State.afterRead, h, hn]

/-- Any other failed attempt counts and sleeps. -/
theorem State.attempt_retry (x : WaitPhase) (b : BitVec 3) (e : Bool) (s : State) (h : bitMatches (s.answer .sc) b e = false)
    (hn : s.n + 1 ≠ Config.pollLimit) : s.attempt x b e = { s.afterRead with n := s.n + 1 }.sleep := by
  simp [State.attempt, State.afterRead, h, hn]

/-- A wait-phase step answers a next state exactly when `WB` and `WE` hold values, and it is one attempt. -/
theorem waitStep_next (x : WaitPhase) (s t : State) (h : waitStep x s = .next t) :
    ∃ b e, s.wb = some b ∧ s.we = some e ∧ t = s.attempt x b e := by
  unfold waitStep at h
  split at h
  · next b e hb he =>
    injection h with h
    exact ⟨b, e, hb, he, h.symm⟩
  · injection h

/-- A timeout goes on, with its bit of `IGN` set, or fails with its record (42_transactions.md R123). -/
theorem State.onTimeout_cases (x : WaitPhase) (s : State) :
    (∃ i, ignIndex x = some i ∧ s.cfg.policy = .compat ∧ s.onTimeout x = { s with ign := setIgn s.ign i }.onSuccess x) ∨
      ((ignIndex x = none ∨ s.cfg.policy = .strict) ∧ s.onTimeout x = s.raise (timeoutRecord x s)) := by
  unfold State.onTimeout
  cases hi : ignIndex x with
  | none => exact .inr ⟨.inl rfl, rfl⟩
  | some i =>
    cases hp : s.cfg.policy with
    | compat => exact .inl ⟨i, rfl, rfl, rfl⟩
    | strict => exact .inr ⟨.inr rfl, rfl⟩

/-- A wait that succeeds goes to the phase after it, and nothing but the phase, the counter and the wait's target changes. -/
theorem State.onSuccess_phase (x : WaitPhase) (s : State) :
    (s.onSuccess x).phase =
      match x with
      | .poll => .done
      | .w1 => .txCmd
      | .w2 => .txAddr
      | .wObf => .rxData
      | .w3 => .txVal
      | .w4 => .done := by
  cases x <;> rfl

/-- What an attempt adds to the trace: its read of the status register, and a sleep where it goes on waiting (41_polling.md R102). -/
theorem State.attempt_trace (x : WaitPhase) (b : BitVec 3) (e : Bool) (s : State) :
    (s.attempt x b e).trace = s.trace ++ .ioRead .sc (s.answer .sc) ::
      if bitMatches (s.answer .sc) b e = false ∧ s.n + 1 ≠ Config.pollLimit then [.sleep] else [] := by
  have hs : ∀ t : State, (t.onSuccess x).trace = t.trace := by
    intro t
    cases x <;> simp [State.onSuccess]
  cases hm : bitMatches (s.answer .sc) b e with
  | true =>
    rw [s.attempt_success x b e hm, hs]
    simp [State.afterRead, State.ioRead]
  | false =>
    by_cases hn : s.n + 1 = Config.pollLimit
    · rw [s.attempt_timeout x b e hm hn]
      rcases State.onTimeout_cases x { s.afterRead with n := 0 } with ⟨_, _, _, h⟩ | ⟨_, h⟩ <;> rw [h]
      · rw [hs]
        simp [State.afterRead, State.ioRead, hn]
      · simp [State.afterRead, State.ioRead, hn]
    · rw [s.attempt_retry x b e hm hn]
      simp [State.afterRead, State.ioRead, State.sleep, State.emit, hn]

/-! ## The Engine's step, by phase -/

/-- What the Engine's step does to the request `i` in flight, one case per kind of phase (10_state.md R21). -/
inductive EngineMove (i : Instr) (s : State) : State → Prop where
  | acquires (p : PortSel) : i = .acquire p → s.phase = .acq → EngineMove i s (acquireStep p s)
  | reads (p : PortSel) : i = .inb p → s.phase = .ior → EngineMove i s (inbStep p s)
  | writes (p : PortSel) (v : Byte) : i = .outb p v → s.phase = .iow → EngineMove i s (outbStep p v s)
  | polls (x : WaitPhase) (b : BitVec 3) (e : Bool) :
      s.phase = .wait x → Phase.wait x ∈ phasesOf i → s.wb = some b → s.we = some e → EngineMove i s (s.attempt x b e)
  | sends (p : PortSel) (v : Byte) (x : WaitPhase) :
      (s.phase = .txCmd ∧ p = .sc ∧ x = .w2 ∧
          ((∃ a, i = .read a ∧ v = s.cfg.cmdRead) ∨ (∃ a w, i = .write a w ∧ v = s.cfg.cmdWrite)) ∨
        s.phase = .txAddr ∧ p = .data ∧ ((i = .read v ∧ x = .wObf) ∨ ((∃ w, i = .write v w) ∧ x = .w3)) ∨
        s.phase = .txVal ∧ p = .data ∧ x = .w4 ∧ ∃ a, i = .write a v) →
      EngineMove i s (sendStep p v x s)
  | receives (a : Byte) : i = .read a → s.phase = .rxData → EngineMove i s (receiveStep s)

/-- Each request's engine answers a next state only by the move of its phase. -/
theorem acquireEngine_next (p : PortSel) (s t : State) (h : acquireEngine p s = .next t) : EngineMove (.acquire p) s t := by
  unfold acquireEngine at h
  split at h
  · next hph =>
    injection h with h
    exact h ▸ .acquires p rfl hph
  · injection h

theorem inbEngine_next (p : PortSel) (s t : State) (h : inbEngine p s = .next t) : EngineMove (.inb p) s t := by
  unfold inbEngine at h
  split at h
  · next hph =>
    injection h with h
    exact h ▸ .reads p rfl hph
  · injection h

theorem outbEngine_next (p : PortSel) (v : Byte) (s t : State) (h : outbEngine p v s = .next t) : EngineMove (.outb p v) s t := by
  unfold outbEngine at h
  split at h
  · next hph =>
    injection h with h
    exact h ▸ .writes p v rfl hph
  · injection h

/-- A wait-phase step in one of the request's own wait phases is a move of it. -/
theorem EngineMove.of_waitStep (i : Instr) (x : WaitPhase) (s t : State) (hph : s.phase = .wait x) (hx : Phase.wait x ∈ phasesOf i)
    (h : waitStep x s = .next t) : EngineMove i s t := by
  obtain ⟨b, e, hb, he, rfl⟩ := waitStep_next _ _ _ h
  exact .polls x b e hph hx hb he

theorem waitEngine_next (b : BitVec 3) (e : Bool) (s t : State) (h : waitEngine s = .next t) : EngineMove (.wait b e) s t := by
  unfold waitEngine at h
  split at h
  · next hph => exact .of_waitStep _ _ _ _ hph (by simp [phasesOf]) h
  · injection h

theorem readEngine_next (a : Byte) (s t : State) (h : readEngine a s = .next t) : EngineMove (.read a) s t := by
  unfold readEngine at h
  split at h
  · next hph => exact .of_waitStep _ _ _ _ hph (by simp [phasesOf]) h
  · next hph =>
    injection h with h
    exact h ▸ .sends .sc _ .w2 (.inl ⟨hph, rfl, rfl, .inl ⟨a, rfl, rfl⟩⟩)
  · next hph => exact .of_waitStep _ _ _ _ hph (by simp [phasesOf]) h
  · next hph =>
    injection h with h
    exact h ▸ .sends .data a .wObf (.inr (.inl ⟨hph, rfl, .inl ⟨rfl, rfl⟩⟩))
  · next hph => exact .of_waitStep _ _ _ _ hph (by simp [phasesOf]) h
  · next hph =>
    injection h with h
    exact h ▸ .receives a rfl hph
  · injection h

theorem writeEngine_next (a v : Byte) (s t : State) (h : writeEngine a v s = .next t) : EngineMove (.write a v) s t := by
  unfold writeEngine at h
  split at h
  · next hph => exact .of_waitStep _ _ _ _ hph (by simp [phasesOf]) h
  · next hph =>
    injection h with h
    exact h ▸ .sends .sc _ .w2 (.inl ⟨hph, rfl, rfl, .inr ⟨a, v, rfl, rfl⟩⟩)
  · next hph => exact .of_waitStep _ _ _ _ hph (by simp [phasesOf]) h
  · next hph =>
    injection h with h
    exact h ▸ .sends .data a .w3 (.inr (.inl ⟨hph, rfl, .inr ⟨⟨v, rfl⟩, rfl⟩⟩))
  · next hph => exact .of_waitStep _ _ _ _ hph (by simp [phasesOf]) h
  · next hph =>
    injection h with h
    exact h ▸ .sends .data v .w4 (.inr (.inr ⟨hph, rfl, rfl, a, rfl⟩))
  · next hph => exact .of_waitStep _ _ _ _ hph (by simp [phasesOf]) h
  · injection h

/-- The engine of a request: what `exec` runs while it is in flight. -/
def engineOf : Instr → State → StepResult
  | .acquire p => acquireEngine p
  | .inb p => inbEngine p
  | .outb p v => outbEngine p v
  | .wait _ _ => waitEngine
  | .read a => readEngine a
  | .write a v => writeEngine a v

/-- `exec` is one event of its request. -/
theorem exec_eq_request (i : Instr) (s : State) : exec i s = request i (engineOf i) s := by
  cases i <;> rfl

theorem engineOf_next (i : Instr) (s t : State) (h : engineOf i s = .next t) : EngineMove i s t := by
  cases i with
  | acquire p => exact acquireEngine_next p s t h
  | inb p => exact inbEngine_next p s t h
  | outb p v => exact outbEngine_next p v s t h
  | wait b e => exact waitEngine_next b e s t h
  | read a => exact readEngine_next a s t h
  | write a v => exact writeEngine_next a v s t h

/-- A request answers a next state only by its issue in IDLE or by the Engine's move of its phase. -/
theorem exec_next (i : Instr) (s t : State) (h : exec i s = .next t) :
    (s.phase = .idle ∧ t = s.issue i) ∨ (inProgress s.phase = true ∧ inFlight s = some i ∧ EngineMove i s t) := by
  rcases request_next _ _ _ _ (exec_eq_request i s ▸ h) with h | ⟨hp, hi, h⟩
  · exact .inl h
  · exact .inr ⟨hp, hi, engineOf_next i s t h⟩

/-- In a wait phase of its own, a request in flight makes one attempt (41_polling.md R102). -/
theorem exec_wait_phase (s : State) (i : Instr) (x : WaitPhase) (b : BitVec 3) (e : Bool) (hph : s.phase = .wait x)
    (hi : inFlight s = some i) (hx : Phase.wait x ∈ phasesOf i) (hb : s.wb = some b) (he : s.we = some e) :
    exec i s = .next (s.attempt x b e) := by
  rw [exec_eq_request, request_inFlight _ _ _ (by simp [hph, inProgress]) hi]
  cases i <;> cases x <;> simp [phasesOf] at hx <;>
    simp [engineOf, waitEngine, readEngine, writeEngine, waitStep, hph, hb, he]

/-- `collect` answers a next state only in DONE or FAILED (10_state.md R27, R28). -/
theorem collect_next (s t : State) (h : collect s = .next t) :
    (s.phase = .done ∧ t = s.collected .done) ∨ (s.phase = .failed ∧ t = s.collected .failed) := by
  unfold collect at h
  split at h
  · next hph => exact .inl ⟨hph, by injection h with h; exact h.symm⟩
  · next hph => exact .inr ⟨hph, by injection h with h; exact h.symm⟩
  · injection h

/-- What one step can do (10_state.md R27): the Host waits, issues a request, has a word refused, or collects; or the Engine
moves the request in flight. -/
inductive StepMove (s : State) : State → Prop where
  | waits : s.phase = .idle → s.hostQueue = [] → StepMove s s
  | issues (w : RequestWord) (rest : List RequestWord) (i : Instr) :
      s.phase = .idle → s.hostQueue = w :: rest → decode w = .request i → StepMove s ({ s with hostQueue := rest }.issue i)
  | refuses (w : RequestWord) (rest : List RequestWord) (why : Reject) :
      s.phase = .idle → s.hostQueue = w :: rest → decode w = .rejected why → StepMove s ({ s with hostQueue := rest }.refuseWord w)
  | collectsDone : s.phase = .done → StepMove s (s.collected .done)
  | collectsFailed : s.phase = .failed → StepMove s (s.collected .failed)
  | engine (i : Instr) (t : State) : inProgress s.phase = true → inFlight s = some i → EngineMove i s t → StepMove s t

/-- The one inversion lemma of the step. -/
theorem step_next (s t : State) (h : step s = .next t) : s.cfg.wf = true ∧ StepMove s t := by
  unfold step at h
  split at h
  · next hwf =>
    refine ⟨hwf, ?_⟩
    by_cases hidle : s.phase = .idle
    · simp only [move, hidle, hostTurn] at h
      split at h
      · next hq =>
        injection h with h
        exact h ▸ .waits hidle hq
      · next w rest hq =>
        simp only [issueWord] at h
        split at h
        · next i hd =>
          rcases exec_next _ _ _ h with ⟨_, rfl⟩ | ⟨hp, _⟩
          · exact .issues w rest i hidle hq hd
          · simp [inProgress] at hp
        · next why hd =>
          injection h with h
          exact h ▸ .refuses w rest why hidle hq hd
    · by_cases hdone : s.phase = .done
      · simp only [move, hdone] at h
        rcases collect_next _ _ h with ⟨hph, rfl⟩ | ⟨hph, rfl⟩
        · exact .collectsDone hph
        · exact .collectsFailed hph
      · by_cases hfailed : s.phase = .failed
        · simp only [move, hfailed] at h
          rcases collect_next _ _ h with ⟨hph, rfl⟩ | ⟨hph, rfl⟩
          · exact .collectsDone hph
          · exact .collectsFailed hph
        · have hp : inProgress s.phase = true := by
            cases hph : s.phase <;> simp_all [inProgress]
          have he : engineStep s = .next t := by
            unfold move at h
            cases hph : s.phase <;> simp_all
          have hx : ∃ i, inFlight s = some i ∧ exec i s = .next t := by
            unfold engineStep at he
            cases hi : inFlight s with
            | none => cases hph : s.phase <;> simp_all
            | some i => cases hph : s.phase <;> simp_all
          obtain ⟨i, hi, hx⟩ := hx
          rcases exec_next _ _ _ hx with ⟨hid, _⟩ | ⟨_, _, hm⟩
          · exact absurd hid hidle
          · exact .engine i t hp hi hm
  · injection h

/-! ## Runs -/

/-- A run goes on from the state its first step answers. -/
theorem runSteps_succ (k : Nat) (s t : State) (h : step s = .next t) : runSteps (k + 1) s = runSteps k t := by
  simp [runSteps, h]

/-- Two runs one after the other. -/
theorem runSteps_add (j k : Nat) (s t : State) (h : runSteps j s = .next t) : runSteps (j + k) s = runSteps k t := by
  induction j generalizing s with
  | zero =>
    injection h with h
    rw [Nat.zero_add, h]
  | succ j ih =>
    rw [show j + 1 + k = j + k + 1 by omega]
    cases hs : step s with
    | next u =>
      rw [runSteps_succ _ _ _ hs] at h ⊢
      exact ih u h
    | fault f => simp [runSteps, hs] at h
    | refused r => simp [runSteps, hs] at h

/-- The runs of the statements are the host's runs of the core. -/
theorem runSteps_eq_run (k : Nat) (s : State) : runSteps k s = Host.Core.run Sys2Proof.core k s := by
  induction k generalizing s with
  | zero => rfl
  | succ k ih =>
    have hc : Host.Core.step Sys2Proof.core s = step s := rfl
    simp only [runSteps, Host.Core.run, hc]
    cases step s with
    | next t => exact ih t
    | fault f => rfl
    | refused r => rfl

end Sys2Proof.Machine
end

