-- ==== Sys2Proof/Laws/PerInstr.lean ====
section
/-! SUPPORT. Facts about every request as syntax, one lemma per constructor. -/

namespace Sys2Proof.Laws

/-- The fixed bits of a word are those of its fields: what a mask `op ++ f ++ a ++ v` keeps of each (30_encoding.md R71). -/
theorem word_and (op op' f f' : BitVec 4) (a a' v v' : Byte) :
    word op f a v &&& word op' f' a' v' = word (op &&& op') (f &&& f') (a &&& a') (v &&& v') := by
  show (op ++ f ++ a ++ v : BitVec (4 + 4 + 8 + 8)) &&& op' ++ f' ++ a' ++ v' = _
  rw [BitVec.and_append, BitVec.and_append, BitVec.and_append]
  rfl

/-- A word as a number, digit by digit: `0xOFAAVV` (30_encoding.md R71). -/
theorem word_toNat (op f : BitVec 4) (a v : Byte) :
    (word op f a v).toNat = op.toNat * 2 ^ 20 + f.toNat * 2 ^ 16 + a.toNat * 2 ^ 8 + v.toNat := by
  have hf := f.isLt
  have ha := a.isLt
  have hv := v.isLt
  unfold word
  simp only [BitVec.toNat_append]
  rw [← Nat.shiftLeft_add_eq_or_of_lt hf, ← Nat.shiftLeft_add_eq_or_of_lt ha, ← Nat.shiftLeft_add_eq_or_of_lt hv]
  simp only [Nat.shiftLeft_eq]
  omega

end Sys2Proof.Laws

namespace Sys2Proof.Laws.EncodeSpells

/-- The word of a request spells its own operation, every must-be-zero bit 0, and its operands are in range
(30_encoding.md R73, R74, R75). -/
def Statement (i : Instr) : Prop := i.op.spells (encode i) = true ∧ i.wf = true

theorem acquire (p : PortSel) : Statement (.acquire p) := by
  cases p <;> exact ⟨by decide, rfl⟩

theorem inb (p : PortSel) : Statement (.inb p) := by
  cases p <;> exact ⟨by decide, rfl⟩

theorem outb (p : PortSel) (v : Byte) : Statement (.outb p v) := by
  refine ⟨?_, by simp [Instr.wf]; omega⟩
  have hm : Op.outb.mask = word 0xF#4 0xE#4 0xFF#8 0x00#8 := by decide
  cases p <;>
    simp only [Op.spells, Instr.op, encode, hm, word_and, PortSel.bit, BitVec.and_zero] <;> decide

theorem wait (b : BitVec 3) (e : Bool) : Statement (.wait b e) := by
  refine ⟨?_, by simp [Instr.wf]; omega⟩
  revert b e
  decide

theorem read (a : Byte) : Statement (.read a) := by
  refine ⟨?_, by simp [Instr.wf]; omega⟩
  have hm : Op.read.mask = word 0xF#4 0xF#4 0x00#8 0xFF#8 := by decide
  simp only [Op.spells, Instr.op, encode, hm, word_and, BitVec.and_zero]
  decide

theorem write (a v : Byte) : Statement (.write a v) := by
  refine ⟨?_, by simp [Instr.wf]; omega⟩
  have hm : Op.write.mask = word 0xF#4 0xF#4 0x00#8 0x00#8 := by decide
  simp only [Op.spells, Instr.op, encode, hm, word_and, BitVec.and_zero]
  decide

end Sys2Proof.Laws.EncodeSpells
end

