-- ==== Sys2Proof/Tests/Slice0.lean ====
section
/-! SUPPORT. The tests: ill-formed terms refused, words decoded, single steps with the results of 95_test_vectors.md, and for every
statement with hypotheses a named witness that meets them. -/

namespace Sys2Proof.Tests

open Sys2Proof.Machine

/-! ## WellFormed: each check refuses an ill-formed term -/

theorem test_presumed_config_is_well_formed : Config.presumed.wf = true := by decide

theorem test_equal_ports_refused : { Config.presumed with portData := 0x66 }.wf = false := by decide

theorem test_equal_flag_bits_refused : { Config.presumed with obfBit := 1 }.wf = false := by decide

theorem test_ibf_bit_above_seven_refused : { Config.presumed with ibfBit := 8 }.wf = false := by decide

theorem test_obf_bit_above_seven_refused : { Config.presumed with obfBit := 8 }.wf = false := by decide

theorem test_equal_duty_addresses_refused : { Config.presumed with regDutyW := 0xCE#8 }.wf = false := by decide

theorem test_status_port_too_wide_refused : { Config.presumed with portSc := 65536 }.wf = false := by decide

theorem test_data_port_too_wide_refused : { Config.presumed with portData := 65536 }.wf = false := by decide

theorem test_zero_exit_code_refused : { Config.presumed with exitFail := 0 }.wf = false := by decide

/-- 00_scope.md R6 asks nothing of the two command codes. -/
theorem test_equal_command_codes_accepted : { Config.presumed with cmdWrite := 0x80#8 }.wf = true := by decide

theorem test_statement_ranges_refused :
    (Statement.outb .sc 256).wf = false ∧ (Statement.wait 8 0).wf = false ∧ (Statement.wait 0 2).wf = false ∧
      (Statement.read 256).wf = false ∧ (Statement.write 256 0).wf = false ∧ (Statement.write 0 256).wf = false := by decide

/-! ## Decode: words written out from the patterns of 30_encoding.md R73 -/

theorem test_decode_acquire :
    decode 0b0001_0000_00000000_00000000#24 = .request (.acquire .sc) ∧
      decode 0b0001_0001_00000000_00000000#24 = .request (.acquire .data) := by decide

theorem test_decode_inb :
    decode 0b0010_0000_00000000_00000000#24 = .request (.inb .sc) ∧
      decode 0b0010_0001_00000000_00000000#24 = .request (.inb .data) := by decide

theorem test_decode_outb :
    decode 0b0011_0000_00000000_11111111#24 = .request (.outb .sc 255#8) ∧
      decode 0b0011_0001_00000000_11001110#24 = .request (.outb .data 0xCE#8) := by decide

theorem test_decode_wait :
    decode 0b0100_0001_00000000_00000000#24 = .request (.wait 1#3 false) ∧
      decode 0b0100_1000_00000000_00000000#24 = .request (.wait 0#3 true) ∧
      decode 0b0100_0111_00000000_00000000#24 = .request (.wait 7#3 false) := by decide

theorem test_decode_read :
    decode 0b1000_0000_00000111_00000000#24 = .request (.read 7#8) ∧
      decode 0b1000_0000_11111111_00000000#24 = .request (.read 255#8) := by decide

theorem test_decode_write :
    decode 0b1001_0000_00000001_10000000#24 = .request (.write 1#8 128#8) ∧
      decode 0b1001_0000_11111111_11111111#24 = .request (.write 255#8 255#8) := by decide

/-- 95_test_vectors.md L2-E, its refused words. -/
theorem test_decode_refused :
    [0x000000#24, 0x500000#24, 0x7FFFFF#24, 0xA00000#24, 0xFFFFFF#24].map decode
        = List.replicate 5 (.rejected .reservedOpcode) ∧
      [0x120000#24, 0x100001#24, 0x2100FF#24, 0x310100#24, 0x4F0100#24, 0x800701#24, 0x810000#24, 0x980000#24].map decode
        = List.replicate 8 (.rejected .reservedBit) := by decide

theorem test_encode_words :
    [Instr.acquire .data, .inb .sc, .outb .data 0xCE#8, .wait 1#3 false, .read 7#8, .write 1#8 0x80#8].map encode
      = [0x110000#24, 0x200000#24, 0x3100CE#24, 0x410000#24, 0x800700#24, 0x900180#24] := by decide

theorem test_decode_table_words :
    decodeTableWord 24 0x900180 = some (.write 1#8 128#8) ∧ decodeTableWord 24 0xA00000 = none := by decide

/-! ## The states of the tests -/

/-- After reset, with both grants held and the policy `p`. -/
def granted (p : Policy) : State :=
  { State.resetWith { Config.presumed with policy := p } with gsc := true, gdata := true }

/-- The request `i` in its phase `ph` with `n` failed attempts, the EC about to answer `status` and `data`; in RX_DATA the status byte
read last has OBF = 1. -/
def scene (p : Policy) (i : Instr) (ph : Phase) (n : Nat) (status data : List Byte) : State :=
  { ((granted p).latch i).enter ph with
    n := n, st := if ph = .rxData then some 0x01#8 else none, statusIn := status, dataIn := data }

/-- Every such state of a phase of its request is consistent. -/
theorem scene_consistent (p : Policy) (i : Instr) (ph : Phase) (n : Nat) (status data : List Byte) (hph : ph ∈ phasesOf i)
    (hn : n < 100) (hw : (∀ x, ph ≠ .wait x) → n = 0) : Consistent (scene p i ph n status data) := by
  have hp : (scene p i ph n status data).phase = ph := by simp [scene]
  have hprog : inProgress ph = true := by cases i <;> simp [phasesOf] at hph <;> aesop
  have hin : inFlight (scene p i ph n status data) = some i := by
    cases i <;> simp [phasesOf] at hph <;> aesop
  have hres : (scene p i ph n status data).res = none := by simp [scene, granted, State.resetWith]
  have herr : (scene p i ph n status data).err = none := by simp [scene, granted, State.resetWith]
  have hign : (scene p i ph n status data).ign = 0#3 := by simp [scene, granted, State.resetWith]
  constructor
  · simpa [scene, Config.pollLimit] using hn
  · rw [hp]; exact hw
  · exact fun _ => ⟨i, hin, by rw [hp]; exact hph⟩
  · intro x b e hx ht
    rw [hp] at hx
    subst hx
    cases x <;> simp_all [scene, State.enter, waitTarget, granted]
  · intro _ _; simp [scene, granted, State.bothGrants]
  · intro _ _; exact hres
  · intro hr
    rw [hp] at hr
    subst hr
    exact ⟨0x01#8, by simp [scene], by cases p <;> simp [scene, granted, State.resetWith] <;> decide⟩
  · intro hd; rw [hp] at hd; subst hd; simp [inProgress] at hprog
  · intro _; rw [herr, hp]; simp; intro hf; subst hf; simp [inProgress] at hprog
  · rw [herr]; simp
  · rw [hign]; simp
  · intro _; exact hign

/-- The next state, where there is one. -/
def nextOf (r : StepResult) : Option State :=
  match r with
  | .next t => some t
  | .fault _ => none
  | .refused _ => none

/-! ## The host's two questions: the table's words as the first instruction after reset -/

theorem test_first_word_runs :
    (nextOf (step (State.reset.withFetchWord 24 0x110000))).map (fun t => (t.phase, t.op, t.ps))
      = some (.acq, some .acquire, some .data) := by decide

/-- 95_test_vectors.md P-1: without the grants a request fails with PERMISSION of SC. -/
theorem test_first_word_without_grants :
    (nextOf (step (State.reset.withFetchWord 24 0x200000))).map (fun t => (t.phase, t.err, t.trace))
      = some (.failed, some { code := .permission, port := some .sc }, []) := by decide

/-! ## One step of each request, with the results of 95_test_vectors.md -/

/-- A-4. -/
theorem test_acquire_denied :
    (nextOf (exec (.acquire .data)
        { scene .compat (.acquire .data) .acq 0 [] [] with gdata := false, grantIn := [.denied] })).map
        (fun t => (t.phase, t.err, t.trace, t.gsc, t.gdata))
      = some (.failed, some { code := .permission, port := some .data }, [.acquire .data .denied], true, false) := by decide

/-- P-3: `ST` stays none. -/
theorem test_inb_status :
    (nextOf (exec (.inb .sc) (scene .compat (.inb .sc) .ior 0 [0x02#8] []))).map (fun t => (t.phase, t.res, t.st, t.trace))
      = some (.done, some 0x02#8, none, [.ioRead .sc 0x02#8]) := by decide

/-- P-5. -/
theorem test_outb_data :
    (nextOf (exec (.outb .data 0xCE#8) (scene .compat (.outb .data 0xCE#8) .iow 0 [] []))).map
        (fun t => (t.phase, t.res, t.trace))
      = some (.done, none, [.ioWrite .data 0xCE#8]) := by decide

/-- W-6: bit 1 of 0xFD is 0. -/
theorem test_wait_tests_its_bit_only :
    (nextOf (exec (.wait 1#3 false) (scene .compat (.wait 1#3 false) (.wait .poll) 0 [0xFD#8] []))).map
        (fun t => (t.phase, t.st, t.trace))
      = some (.done, some 0xFD#8, [.ioRead .sc 0xFD#8]) := by decide

/-- W-8, its last attempt, under the policy that passes intermediate timeouts over. -/
theorem test_wait_times_out :
    (nextOf (exec (.wait 5#3 false) (scene .compat (.wait 5#3 false) (.wait .poll) 99 [0xFF#8] []))).map
        (fun t => (t.phase, t.err, t.trace))
      = some (.failed, some
          { code := .timeout, wait := some .poll, bit := some 5#3, expected := some false, status := some 0xFF#8, attempts := some 100 },
          [.ioRead .sc 0xFF#8]) := by decide

/-- R-1, its address byte: to DATA, and the wait for OBF = 1 after it (OBF at bit 0 here). -/
theorem test_read_sends_the_address :
    (nextOf (exec (.read 7#8) (scene .compat (.read 7#8) .txAddr 0 [] []))).map (fun t => (t.phase, t.wb, t.we, t.trace))
      = some (.wait .wObf, some 0#3, some true, [.ioWrite .data 7#8]) := by decide

/-- R-1, its last step. -/
theorem test_read_receives_the_result :
    (nextOf (exec (.read 7#8) (scene .compat (.read 7#8) .rxData 0 [] [45#8]))).map (fun t => (t.phase, t.res, t.trace))
      = some (.done, some 45#8, [.ioRead .data 45#8]) := by decide

/-- 42_transactions.md R126: W3 of a WRITE timing out under COMPAT sets bit 2 of `IGN` and the value byte is next. -/
theorem test_write_passes_w3_over :
    (nextOf (exec (.write 1#8 0x80#8) (scene .compat (.write 1#8 0x80#8) (.wait .w3) 99 [0x02#8] []))).map
        (fun t => (t.phase, t.ign, t.n, t.trace))
      = some (.txVal, 0b100#3, 0, [.ioRead .sc 0x02#8]) := by decide

/-- R121's example: the value byte. -/
theorem test_write_sends_the_value :
    (nextOf (exec (.write 1#8 0x80#8) (scene .compat (.write 1#8 0x80#8) .txVal 0 [] []))).map (fun t => (t.phase, t.trace))
      = some (.wait .w4, [.ioWrite .data 0x80#8]) := by decide

/-! ## Faults and refusals -/

/-- 10_state.md R20: a wait whose `WB` holds none. -/
theorem test_none_register_faults :
    engineStep { scene .compat (.read 7#8) (.wait .w1) 0 [] [] with wb := none } = .fault .noneRegister := rfl

theorem test_unlatched_request_faults :
    engineStep { State.reset with phase := .txCmd } = .fault .noneRegister := rfl

theorem test_foreign_phase_faults :
    exec (.read 7#8) { scene .compat (.read 7#8) .txCmd 0 [] [] with phase := .txVal } = .fault .phaseMismatch := rfl

/-! ## The Host's arithmetic and the assembler -/

/-- 43_host_sequences.md R151, R152: the ties round up. -/
theorem test_scaling :
    [0, 10, 30, 50, 70, 90, 100].map scaleUp = [0, 26, 77, 128, 179, 230, 255] ∧
      [0, 128, 255].map scaleDown = [0, 50, 100] := by decide

/-- 95_test_vectors.md L1-3. -/
theorem test_rpm : [0, 1, 3000, 2156220].map rpm = [0, 2156220, 718, 1] := by decide

/-- 30_encoding.md R80: comment, blanks, case, hexadecimal. -/
theorem test_assemble_line :
    assembleLine Config.presumed ['w', 'r', 'i', 't', 'e', ' ', '0', 'x', '1', ',', '1', '2', '8', ' ', ';', '!'] = some 0x900180#24 ∧
      assembleLine Config.presumed ['I', 'N', 'B', ' ', 'X', 'Y'] = none := by decide

/-! ## The reference EC's memory -/

theorem test_memory_read_after_write :
    readByte 7 (writeByte 7 45#8 [(9, 1#8)]) = 45#8 ∧ writeByte 9 0#8 [(9, 1#8)] = [] ∧
      memoryWf (writeByte 7 45#8 [(9, 1#8)]) = true := by decide

/-! ## Witnesses: for each statement with hypotheses, a concrete state and operands that meet them together -/

/-- After reset with the Host's words `q` still to issue. -/
def idle (q : List RequestWord) : State := { granted .compat with hostQueue := q }

theorem idle_consistent (q : List RequestWord) : Consistent (idle q) := by
  constructor <;> simp [idle, granted, State.resetWith, Config.pollLimit, inProgress]

theorem witness_EncodeOfDecodeIsSame : decode 0x80FF00#24 = .request (.read 0xFF#8) := by decide

theorem witness_RowsReadTheirFields :
    0x110000#24 &&& 0xFEFFFF#24 = 0x100000#24 ∧ 0x210000#24 &&& 0xFEFFFF#24 = 0x200000#24 ∧
      0x3100FF#24 &&& 0xFEFF00#24 = 0x300000#24 ∧ 0x4F0000#24 &&& 0xF0FFFF#24 = 0x400000#24 ∧
      0x80FF00#24 &&& 0xFF00FF#24 = 0x800000#24 ∧ 0x90FFFF#24 &&& 0xFF0000#24 = 0x900000#24 := by decide

theorem witness_StepIssuesTheDecodedRequest :
    (idle [0x800700#24]).cfg.wf = true ∧ (idle [0x800700#24]).phase = .idle ∧
      (idle [0x800700#24]).hostQueue = [0x800700#24] ∧ decode 0x800700#24 = .request (.read 7#8) := by decide

theorem witness_StepRunsTheRequestInFlight :
    let s := scene .strict (.write 1#8 2#8) (.wait .w4) 0 [] []
    s.cfg.wf = true ∧ inProgress s.phase = true ∧ inFlight s = some (.write 1#8 2#8) := by decide

theorem witness_IdleWithoutRequestWaits :
    State.reset.cfg.wf = true ∧ State.reset.phase = .idle ∧ State.reset.hostQueue = [] := by decide

theorem witness_ReservedWordIsRefusedAtIssue :
    (idle [0xA00000#24, 0x800701#24]).cfg.wf = true ∧ (idle [0xA00000#24, 0x800701#24]).phase = .idle ∧
      fieldOp 0xA00000#24 = 0xA#4 ∧ fieldOp 0x800701#24 = Op.read.code ∧ 0x800701#24 &&& Op.read.mask ≠ Op.read.pattern := by decide

theorem witness_IssueClearsLatchesAndEnters :
    (granted .strict).phase = .idle ∧ (granted .strict).gsc = true ∧ (granted .strict).gdata = true := by decide

theorem witness_IssueWithoutBothGrantsIsDenied :
    (State.reset.phase = .idle ∧ State.reset.gsc = false) ∧
      ({ State.reset with gsc := true }.phase = .idle ∧ { State.reset with gsc := true }.gdata = false) := by decide

theorem witness_NoRegisterLeaksIntoTheNextRequest : (idle []).phase = .idle := rfl

theorem witness_HostEventsOnlyWhereEnabled :
    (Consistent (idle []) ∧ (idle []).phase = .idle) ∧
      (∃ s, Consistent s ∧ s.phase = .txCmd ∧ inFlight s ≠ some (.read 8#8)) ∧
      (∃ s, Consistent s ∧ s.phase = .done) ∧ ∃ s, Consistent s ∧ s.phase = .failed := by
  refine ⟨⟨idle_consistent _, rfl⟩, ?_, ?_, ?_⟩
  · exact ⟨_, scene_consistent .compat (.read 7#8) .txCmd 0 [] [] (by decide) (by decide) (fun _ => rfl), rfl, by decide⟩
  · refine ⟨{ idle [] with phase := .done, op := some .outb }, ?_, rfl⟩
    constructor <;> simp [idle, granted, State.resetWith, Config.pollLimit, inProgress]
  · refine ⟨{ idle [] with phase := .failed, err := some (refusedRecord 0#24) }, ?_, rfl⟩
    constructor <;> simp [idle, granted, State.resetWith, Config.pollLimit, inProgress, recordShaped, refusedRecord]

theorem witness_IllFormedConfigurationIsRefused :
    { Config.presumed with portData := 0x66 }.portSc = 0x66 ∧ { Config.presumed with obfBit := 1 }.ibfBit = 1 ∧
      7 < { Config.presumed with ibfBit := 8 }.ibfBit ∧ 7 < { Config.presumed with obfBit := 8 }.obfBit ∧
      { Config.presumed with regDutyW := 0xCE#8 }.regDutyR = 0xCE#8 := by decide

theorem witness_AcquireStepByHeldGrantedDenied :
    (scene .compat (.acquire .sc) .acq 0 [] []).phase = .acq ∧
      inFlight (scene .compat (.acquire .sc) .acq 0 [] []) = some (.acquire .sc) ∧
      (scene .compat (.acquire .sc) .acq 0 [] []).gsc = true ∧
      { scene .compat (.acquire .sc) .acq 0 [] [] with gsc := false, grantIn := [.granted] }.grantDraw = .granted ∧
      { scene .compat (.acquire .data) .acq 0 [] [] with gdata := false, grantIn := [.granted] }.grantDraw = .granted ∧
      { scene .compat (.acquire .data) .acq 0 [] [] with gdata := false, grantIn := [.denied] }.grantDraw = .denied := by decide

theorem witness_InbReturnsThePortByte :
    (scene .compat (.inb .sc) .ior 0 [] []).phase = .ior ∧
      inFlight (scene .compat (.inb .sc) .ior 0 [] []) = some (.inb .sc) ∧
      inFlight (scene .compat (.inb .data) .ior 0 [] []) = some (.inb .data) := by decide

theorem witness_OutbWritesThePortByte :
    (scene .compat (.outb .sc 255#8) .iow 0 [] []).phase = .iow ∧
      inFlight (scene .compat (.outb .sc 255#8) .iow 0 [] []) = some (.outb .sc 255#8) := by decide

theorem witness_InbAndOutbTakeOneStepAndOneEvent :
    (scene .compat (.inb .data) .ior 0 [] []).phase = entryPhase (.inb .data) ∧
      inFlight (scene .compat (.inb .data) .ior 0 [] []) = some (.inb .data) := by decide

theorem witness_WaitEndsDoneWhenTheBitMatches :
    let s := scene .strict (.wait 7#3 true) (.wait .poll) 99 [0x80#8] []
    s.phase = .wait .poll ∧ inFlight s = some (.wait 7#3 true) ∧ (s.answer .sc).getLsbD 7 = true := by decide

theorem witness_FailedAttemptCountsAndSleeps :
    let s := scene .strict (.read 7#8) (.wait .wObf) 98 [0x02#8] []
    s.phase = .wait .wObf ∧ inFlight s = some (.read 7#8) ∧ s.phase ∈ phasesOf (.read 7#8) ∧ s.wb = some 0#3 ∧ s.we = some true ∧
      (s.answer .sc).getLsbD 0 ≠ true ∧ s.n + 1 ≠ 100 := by decide

theorem witness_PollTimeoutIsSurfaced :
    let s := scene .compat (.wait 1#3 false) (.wait .poll) 99 [0x02#8] []
    s.phase = .wait .poll ∧ inFlight s = some (.wait 1#3 false) ∧ (s.answer .sc).getLsbD 1 ≠ false ∧ s.n + 1 = 100 := by decide

/-- Both clauses at their limit: 99 failing bytes, then one that matches (0x00) or not (0x02). -/
theorem witness_WaitCountingLaw :
    let s := scene .compat (.wait 1#3 false) (.wait .poll) 0 (List.replicate 99 0x02#8 ++ [0x00#8]) []
    let s' := scene .compat (.write 1#8 2#8) (.wait .w3) 0 (List.replicate 99 0x02#8 ++ [0x02#8]) []
    (s.cfg.wf = true ∧ s.phase = .wait .poll ∧ inFlight s = some (.wait 1#3 false) ∧ s.phase ∈ phasesOf (.wait 1#3 false) ∧
        s.wb = some 1#3 ∧ s.we = some false ∧ s.n = 0 ∧ s.statusIn = List.replicate 99 0x02#8 ++ 0x00#8 :: []) ∧
      (s'.cfg.wf = true ∧ s'.phase = .wait .w3 ∧ inFlight s' = some (.write 1#8 2#8) ∧ s'.phase ∈ phasesOf (.write 1#8 2#8) ∧
        s'.wb = some 1#3 ∧ s'.we = some false ∧ s'.n = 0 ∧ s'.statusIn = List.replicate 99 0x02#8 ++ 0x02#8 :: []) ∧
      (∀ v ∈ List.replicate 99 0x02#8, v.getLsbD 1 ≠ false) ∧ (List.replicate 99 0x02#8).length = 99 := by
  refine ⟨⟨rfl, rfl, rfl, by decide, rfl, rfl, rfl, rfl⟩, ⟨rfl, rfl, rfl, by decide, rfl, rfl, rfl, rfl⟩, ?_, rfl⟩
  intro v hv
  rw [(List.mem_replicate.1 hv).2]
  decide

theorem witness_OnlyTheTestedBitDecides :
    let s := scene .compat (.read 7#8) (.wait .w1) 99 [] []
    s.phase = .wait .w1 ∧ s.wb = some 1#3 ∧ (0x02#8).getLsbD 1 = (0xFF#8).getLsbD 1 ∧
      (nextOf (exec (.read 7#8) { s with statusIn := [0x02#8] })).isSome = true := by decide

theorem witness_WaitIgnoresPolicyAndGrants :
    let s := scene .compat (.wait 1#3 false) (.wait .poll) 99 [0x02#8] []
    s.phase = .wait .poll ∧ (nextOf (exec (.wait 1#3 false) s)).isSome = true := by decide

theorem witness_SendStepsWriteOneByte :
    inFlight (scene .compat (.read 7#8) .txCmd 0 [] []) = some (.read 7#8) ∧
      inFlight (scene .compat (.write 1#8 2#8) .txCmd 0 [] []) = some (.write 1#8 2#8) ∧
      inFlight (scene .compat (.read 7#8) .txAddr 0 [] []) = some (.read 7#8) ∧
      inFlight (scene .compat (.write 1#8 2#8) .txAddr 0 [] []) = some (.write 1#8 2#8) ∧
      inFlight (scene .compat (.write 1#8 2#8) .txVal 0 [] []) = some (.write 1#8 2#8) ∧
      (scene .compat (.write 1#8 2#8) .txVal 0 [] []).phase = .txVal := by decide

theorem witness_ReadEndsDoneWithTheDataByte :
    (scene .compat (.read 255#8) .rxData 0 [] []).phase = .rxData ∧
      inFlight (scene .compat (.read 255#8) .rxData 0 [] []) = some (.read 255#8) := by decide

theorem witness_WriteEndsDoneWhenConfirmed :
    let s := scene .strict (.write 1#8 2#8) (.wait .w4) 99 [0xFD#8] []
    s.phase = .wait .w4 ∧ inFlight s = some (.write 1#8 2#8) ∧ s.wb = some (BitVec.ofNat 3 s.cfg.ibfBit) ∧ s.we = some false ∧
      ibf s.cfg (s.answer .sc) = false := by decide

/-- A wait of a transaction in its own phase, whose next status byte decides. -/
def awaits (p : Policy) (i : Instr) (x : WaitPhase) (n : Nat) (v : Byte) (b : BitVec 3) (e : Bool) : Bool :=
  let s := scene p i (.wait x) n [v] []
  s.phase == .wait x && inFlight s == some i && (phasesOf i).contains s.phase && s.wb == some b && s.we == some e

theorem witness_TransactionWaitSuccessTable :
    awaits .compat (.read 7#8) .w1 0 0x00#8 1#3 false = true ∧ awaits .strict (.read 7#8) .w2 99 0x00#8 1#3 false = true ∧
      awaits .compat (.read 7#8) .wObf 99 0x01#8 0#3 true = true ∧ awaits .compat (.write 1#8 2#8) .w3 0 0x00#8 1#3 false = true ∧
      awaits .compat (.write 1#8 2#8) .w4 99 0x00#8 1#3 false = true ∧ (0x00#8).getLsbD 1 = false ∧ (0x01#8).getLsbD 0 = true := by decide

theorem witness_CompatRecordsTheTimeoutAndGoesOn :
    (granted .compat).cfg.policy = .compat ∧ awaits .compat (.read 7#8) .w1 99 0x02#8 1#3 false = true ∧
      awaits .compat (.read 7#8) .w2 99 0x02#8 1#3 false = true ∧ awaits .compat (.write 1#8 2#8) .w3 99 0x02#8 1#3 false = true ∧
      (0x02#8).getLsbD 1 ≠ false := by decide

theorem witness_StrictFailsOnAnIntermediateTimeout :
    (granted .strict).cfg.policy = .strict ∧
      Consistent (scene .strict (.write 1#8 2#8) (.wait .w1) 99 [0x02#8] []) ∧
      Consistent (scene .strict (.write 1#8 2#8) (.wait .w2) 99 [0x02#8] []) ∧
      Consistent (scene .strict (.write 1#8 2#8) (.wait .w3) 99 [0x02#8] []) ∧
      awaits .strict (.write 1#8 2#8) .w1 99 0x02#8 1#3 false = true ∧ awaits .strict (.write 1#8 2#8) .w2 99 0x02#8 1#3 false = true ∧
      awaits .strict (.write 1#8 2#8) .w3 99 0x02#8 1#3 false = true ∧ (0x02#8).getLsbD 1 ≠ false :=
  ⟨rfl, scene_consistent _ _ _ _ _ _ (by decide) (by decide) (fun h => absurd rfl (h .w1)),
    scene_consistent _ _ _ _ _ _ (by decide) (by decide) (fun h => absurd rfl (h .w2)),
    scene_consistent _ _ _ _ _ _ (by decide) (by decide) (fun h => absurd rfl (h .w3)), by decide, by decide, by decide, by decide⟩

theorem witness_FinalTimeoutFailsUnderEitherPolicy :
    Consistent (scene .compat (.read 7#8) (.wait .wObf) 99 [0x02#8] []) ∧
      Consistent (scene .strict (.write 1#8 2#8) (.wait .w4) 99 [0x02#8] []) ∧
      awaits .compat (.read 7#8) .wObf 99 0x02#8 0#3 true = true ∧ (0x02#8).getLsbD 0 ≠ true ∧
      awaits .strict (.write 1#8 2#8) .w4 99 0x02#8 1#3 false = true ∧ (0x02#8).getLsbD 1 ≠ false :=
  ⟨scene_consistent _ _ _ _ _ _ (by decide) (by decide) (fun h => absurd rfl (h .wObf)),
    scene_consistent _ _ _ _ _ _ (by decide) (by decide) (fun h => absurd rfl (h .w4)), by decide, by decide, by decide, by decide⟩

theorem witness_ReadRunsItsByteProtocol :
    let s := { idle [encode (.read 7#8)] with statusIn := [0x00#8, 0x00#8, 0x01#8], dataIn := [45#8] }
    s.cfg.wf = true ∧ s.phase = .idle ∧ s.gsc = true ∧ s.gdata = true ∧ s.hostQueue = encode (.read 7#8) :: [] ∧
      ibf s.cfg 0x00#8 = false ∧ obf s.cfg 0x01#8 = true := by decide

theorem witness_WriteRunsItsByteProtocol :
    let s := { idle [encode (.write 1#8 128#8)] with statusIn := [0x00#8, 0x00#8, 0x00#8, 0xFD#8] }
    s.cfg.wf = true ∧ s.phase = .idle ∧ s.gsc = true ∧ s.gdata = true ∧ s.hostQueue = encode (.write 1#8 128#8) :: [] ∧
      ibf s.cfg 0x00#8 = false ∧ ibf s.cfg 0xFD#8 = false := by decide

theorem witness_EveryRequestEndsWithinItsBound :
    (idle [0x900180#24]).cfg.wf = true ∧ (idle [0x900180#24]).phase = .idle ∧ (idle [0x900180#24]).hostQueue = 0x900180#24 :: [] ∧
      decode 0x900180#24 = .request (.write 1#8 128#8) := by decide

/-- One step of each kind: to the next phase, staying, failing in ACQ, failing in a wait. -/
theorem witness_PhasesFollowTheTable :
    let goes (s : State) (i : Instr) (ph : Phase) : Bool :=
      inProgress s.phase && inFlight s == some i && (nextOf (step s)).map (fun t => t.phase) == some ph
    goes (scene .compat (.read 7#8) .txAddr 0 [] []) (.read 7#8) (.wait .wObf) = true ∧
      goes (scene .strict (.read 7#8) (.wait .w1) 98 [0x02#8] []) (.read 7#8) (.wait .w1) = true ∧
      goes { scene .compat (.acquire .sc) .acq 0 [] [] with gsc := false, grantIn := [.denied] } (.acquire .sc) .failed = true ∧
      goes (scene .strict (.read 7#8) (.wait .w1) 99 [0x02#8] []) (.read 7#8) .failed = true := by decide

theorem witness_WriteIsDoneOnlyAfterConfirmation :
    ∃ s t, Consistent s ∧ step s = .next t ∧ s.phase ≠ .done ∧ t.phase = .done ∧ t.op = some .write :=
  ⟨_, _, scene_consistent .compat (.write 1#8 2#8) (.wait .w4) 99 [0xFD#8] [] (by decide) (by decide) (fun h => absurd rfl (h .w4)),
    rfl, by decide, by decide, by decide⟩

/-- Both clauses: DATA read, and RX_DATA entered. -/
theorem witness_DataIsReadOnlyAfterOutputFull :
    (∃ s t, Consistent s ∧ step s = .next t ∧ inProgress s.phase = true ∧ inFlight s = some (.read 7#8) ∧
        .ioRead .data 45#8 ∈ t.trace.drop s.trace.length) ∧
      ∃ s t, Consistent s ∧ step s = .next t ∧ t.phase = .rxData :=
  ⟨⟨_, _, scene_consistent .compat (.read 7#8) .rxData 0 [] [45#8] (by decide) (by decide) (fun _ => rfl), rfl, by decide, by decide,
      by decide⟩,
    ⟨_, _, scene_consistent .strict (.read 7#8) (.wait .wObf) 99 [0x01#8] [] (by decide) (by decide)
      (fun h => absurd rfl (h .wObf)), rfl, by decide⟩⟩

/-- Each send phase entered: ready, or passed over at the limit. -/
theorem witness_ByteIsSentOnlyAfterReadyOrRecorded :
    (∃ s t, Consistent s ∧ step s = .next t ∧ t.phase = .txCmd ∧ ibf s.cfg (s.answer .sc) = false) ∧
      (∃ s t, Consistent s ∧ step s = .next t ∧ t.phase = .txAddr ∧ ibf s.cfg (s.answer .sc) = true) ∧
      ∃ s t, Consistent s ∧ step s = .next t ∧ t.phase = .txVal ∧ ibf s.cfg (s.answer .sc) = true :=
  ⟨⟨_, _, scene_consistent .strict (.read 7#8) (.wait .w1) 0 [0x00#8] [] (by decide) (by decide) (fun _ => rfl), rfl, by decide,
      by decide⟩,
    ⟨_, _, scene_consistent .compat (.read 7#8) (.wait .w2) 99 [0x02#8] [] (by decide) (by decide) (fun h => absurd rfl (h .w2)),
      rfl, by decide, by decide⟩,
    ⟨_, _, scene_consistent .compat (.write 1#8 2#8) (.wait .w3) 99 [0x02#8] [] (by decide) (by decide)
      (fun h => absurd rfl (h .w3)), rfl, by decide, by decide⟩⟩

theorem witness_DoneReadReturnsTheByteJustRead :
    ∃ s t, Consistent s ∧ step s = .next t ∧ s.phase ≠ .done ∧ t.phase = .done ∧ t.op = some .read :=
  ⟨_, _, scene_consistent .compat (.read 7#8) .rxData 0 [] [45#8] (by decide) (by decide) (fun _ => rfl), rfl, by decide, by decide,
    by decide⟩

theorem witness_ResetLeavesTheStatedValues : State.reset = State.reset ∧ ∃ c, State.reset = State.resetWith c :=
  ⟨rfl, _, rfl⟩

theorem witness_StepKeepsConsistent : ∃ s t, Consistent s ∧ step s = .next t :=
  ⟨_, _, scene_consistent .compat (.read 7#8) (.wait .w2) 99 [0x02#8] [] (by decide) (by decide) (fun h => absurd rfl (h .w2)), rfl⟩

theorem witness_ConsistentStateNeverStops : ∃ s, Consistent s ∧ s.cfg.wf = true :=
  ⟨_, scene_consistent .strict (.read 7#8) (.wait .w2) 99 [] [] (by decide) (by decide) (fun h => absurd rfl (h .w2)), rfl⟩

/-- A grant held before, and one that the step sets. -/
theorem witness_GrantsAreNeverCleared :
    let s := { scene .compat (.acquire .data) .acq 0 [] [] with gdata := false, grantIn := [.granted] }
    s.gsc = true ∧ (nextOf (step s)).map (fun t => t.gdata) = some true ∧ s.gdata = false := by decide

theorem witness_ConfigurationNeverChanges : (nextOf (step (idle [0x900180#24]))).isSome = true := by decide

theorem witness_StepMakesAtMostOneAccess :
    (nextOf (step (scene .compat (.read 7#8) (.wait .wObf) 98 [0x02#8] []))).map (fun t => t.trace)
      = some [.ioRead .sc 0x02#8, .sleep] := by decide

theorem witness_NoPortEventWithoutBothGrants :
    ∃ s t, Consistent s ∧ step s = .next t ∧ portEvents t.trace ≠ portEvents s.trace :=
  ⟨_, _, scene_consistent .compat (.read 7#8) .txAddr 0 [] [] (by decide) (by decide) (fun _ => rfl), rfl, by decide⟩

theorem witness_CollectReturnsTheRecord :
    { idle [] with phase := .done }.phase = .done ∧
      ({ idle [] with phase := .failed }.phase = .failed ∧ { idle [] with phase := .failed }.hostKind = .bench) ∧
      { idle [] with phase := .failed, hostKind := .cli }.hostKind = .cli := by decide

theorem witness_CliStopsAfterAFailure :
    let s := { idle [0x800700#24] with phase := .failed, hostKind := .cli }
    s.cfg.wf = true ∧ s.phase = .failed ∧ s.hostKind = .cli := by decide

theorem witness_SetIsValidatedBeforeAnyRequest :
    (∀ p, some (101 : Int) = some p → p < 0 ∨ 100 < p) ∧ (∀ p, (none : Option Int) = some p → p < 0 ∨ 100 < p) ∧ 100 ≤ 100 := by
  refine ⟨fun p h => ?_, fun p h => by simp at h, le_refl _⟩
  injection h with h
  omega

theorem witness_ScalingRoundTrips : 255 ≤ 255 ∧ 100 ≤ 100 := by decide

theorem witness_RpmOfACount : (1 ≠ 0 ∧ 1 ≤ 1 ∧ 1 ≤ 65535) ∧ 65535 ≠ 0 ∧ 1 ≤ 65535 ∧ 65535 ≤ 65535 := by decide

theorem witness_GetIssuesTheFixedOrder : (false = true ∨ false = true ∨ false = true ∨ true = true) := by decide

theorem witness_AssemblerAcceptsExactlyTheRanges :
    (255 ≤ 255 ∧ 7 ≤ 7 ∧ 1 ≤ 1) ∧ (Statement.write 255 255).wf = true ∧ (Statement.wait 7 1).wf = true ∧
      assemble Config.presumed (.wait 8 1) = none ∧ assemble Config.presumed (.read 256) = none := by decide

theorem witness_PseudoWaitsAreWaits : Config.presumed.wf = true ∧ Config.presumed.ibfBit = 1 ∧ Config.presumed.obfBit = 0 := by decide

theorem witness_GetWithoutPrivilegePrintsNothing : Config.presumed.wf = true := by decide

theorem witness_ReferenceEcReadReturnsTheRegister :
    let b : Bench := { machine := idle [encode (.read 7#8)], ec := { reg := [(7, 45#8)], mode := .idle, out := none } }
    b.machine.cfg.wf = true ∧ b.machine.phase = .idle ∧ b.machine.gsc = true ∧ b.machine.gdata = true ∧
      b.machine.hostQueue = encode (.read 7#8) :: [] ∧ b.ec.out = none := by decide

theorem witness_ReferenceEcReadAfterWrite :
    let b : Bench :=
      { machine := idle [encode (.write 7#8 1#8), encode (.read 8#8)], ec := { reg := [(7, 45#8)], mode := .idle, out := none } }
    b.machine.cfg.wf = true ∧ b.machine.cfg.cmdRead ≠ b.machine.cfg.cmdWrite ∧ memoryWf b.ec.reg = true ∧ b.machine.phase = .idle ∧
      b.machine.gsc = true ∧ b.machine.gdata = true ∧
      b.machine.hostQueue = encode (.write 7#8 1#8) :: encode (.read 8#8) :: [] ∧ b.ec.out = none := by decide

end Sys2Proof.Tests
end

section
/-! PROOFS of the family 00_scope.md: what a step adds to the trace (R10, R11), and which tables are refused (R6). -/

namespace Sys2Proof

/-! ## The constraints on the constants table -/

/-- The executable check of 00_scope.md R6 is the conjunction of its constraints. -/
theorem Config.distinct_iff (c : Config) :
    c.distinct = true ↔
      c.portSc ≠ c.portData ∧ c.ibfBit ≠ c.obfBit ∧ c.ibfBit ≤ 7 ∧ c.obfBit ≤ 7 ∧ c.regDutyR ≠ c.regDutyW := by
  simp [Config.distinct, and_assoc]

/-- A table that breaks a constraint is not well formed, whatever its types. -/
theorem Config.wf_eq_false_of_not_distinct (c : Config) (h : ¬ c.distinct = true) : c.wf = false := by
  simp [Config.wf, h]

end Sys2Proof

namespace Sys2Proof.Machine

/-! ## What an issue and each Engine move add to the trace -/

/-- The issue of a request makes no port access (30_encoding.md R77). -/
@[simp] theorem State.issue_trace (i : Instr) (s : State) : (s.issue i).trace = s.trace := by
  rcases s.issue_cases i with ⟨_, h⟩ | ⟨_, _, h⟩ <;> simp [h]

/-- The issue of a word that spells no operation makes no port access (30_encoding.md R75). -/
@[simp] theorem State.refuseWord_trace (w : RequestWord) (s : State) : (s.refuseWord w).trace = s.trace := by
  simp [State.refuseWord]

/-- A held port makes no event; any other answer of the authority is one `Acquire` (40_port_access.md R90). -/
theorem acquireStep_trace (p : PortSel) (s : State) :
    (acquireStep p s).trace = s.trace ++ if s.holds p then [] else [.acquire p s.grantDraw] := by
  unfold acquireStep
  cases s.holds p with
  | true => simp
  | false => cases hg : s.grantDraw <;> simp [hg]

@[simp] theorem inbStep_trace (p : PortSel) (s : State) : (inbStep p s).trace = s.trace ++ [.ioRead p (s.answer p)] := by
  simp [inbStep]

@[simp] theorem outbStep_trace (p : PortSel) (v : Byte) (s : State) : (outbStep p v s).trace = s.trace ++ [.ioWrite p v] := by
  simp [outbStep]

@[simp] theorem sendStep_trace (p : PortSel) (v : Byte) (x : WaitPhase) (s : State) :
    (sendStep p v x s).trace = s.trace ++ [.ioWrite p v] := by
  simp [sendStep]

@[simp] theorem receiveStep_trace (s : State) : (receiveStep s).trace = s.trace ++ [.ioRead .data (s.answer .data)] := by
  simp [receiveStep]

/-- The Engine's move makes at most one access; a sleep comes only after the status read of a wait (00_scope.md R10). -/
theorem EngineMove.trace_grows (i : Instr) (s t : State) (h : EngineMove i s t) :
    t.trace = s.trace ∨
      (∃ e, e ≠ .sleep ∧ t.trace = s.trace ++ [e]) ∨
      (∃ x v, s.phase = .wait x ∧ t.trace = s.trace ++ [.ioRead .sc v, .sleep]) := by
  cases h with
  | acquires p _ _ =>
    have ht := acquireStep_trace p s
    split at ht
    · exact .inl (by simpa using ht)
    · exact .inr (.inl ⟨_, by simp, ht⟩)
  | reads p _ _ => exact .inr (.inl ⟨_, by simp, inbStep_trace p s⟩)
  | writes p v _ _ => exact .inr (.inl ⟨_, by simp, outbStep_trace p v s⟩)
  | polls x b e hph _ _ _ =>
    have ht := s.attempt_trace x b e
    split at ht
    · exact .inr (.inr ⟨x, _, hph, ht⟩)
    · exact .inr (.inl ⟨_, by simp, ht⟩)
  | sends p v x _ => exact .inr (.inl ⟨_, by simp, sendStep_trace p v x s⟩)
  | receives _ _ _ => exact .inr (.inl ⟨_, by simp, receiveStep_trace s⟩)

/-- Settles O46: the Host's moves leave the trace alone, and the Engine's add what `EngineMove.trace_grows` says. -/
theorem stepMakesAtMostOneAccess : Obligations.StepMakesAtMostOneAccess := by
  intro s t h
  obtain ⟨_, hmove⟩ := step_next s t h
  cases hmove with
  | waits _ _ => exact .inl rfl
  | issues w rest i _ _ _ => exact .inl (by simp)
  | refuses w rest why _ _ _ => exact .inl (by simp)
  | collectsDone _ => exact .inl (by simp)
  | collectsFailed _ => exact .inl (by simp)
  | engine i t _ _ hm => exact hm.trace_grows

/-! ## The refusal of an ill-formed table -/

/-- The two places that look at the table (log 12). -/
theorem boot_refused (c : Config) (h : c.wf = false) : boot c = .refused .illFormedConfig := by
  simp [boot, h]

theorem step_refused (s : State) (h : s.cfg.wf = false) : step s = .refused .illFormedConfig := by
  simp [step, h]

/-- Settles O14: each broken constraint contradicts its conjunct of `Config.distinct_iff`. -/
theorem illFormedConfigurationIsRefused : Obligations.IllFormedConfigurationIsRefused := by
  intro c hbroken
  have hwf : c.wf = false := by
    refine c.wf_eq_false_of_not_distinct fun hd => ?_
    obtain ⟨hports, hbits, hibf, hobf, hduty⟩ := c.distinct_iff.1 hd
    rcases hbroken with h | h | h | h | h
    · exact hports h
    · exact hbits h
    · exact absurd hibf (Nat.not_le.2 h)
    · exact absurd hobf (Nat.not_le.2 h)
    · exact hduty h
  refine ⟨boot_refused c hwf, ?_⟩
  rintro s rfl
  exact step_refused s hwf

end Sys2Proof.Machine
end

section
/-! PROOFS of the family 10_state.md: reset (R40, R41), the phase table (R21), the host interface (R27, R28), the grants (R25), and
the Engine's invariant, which every step keeps. -/

open Sys2Proof Sys2Proof.Machine

namespace Sys2Proof.Machine

/-! ## The phase table (10_state.md R21) -/

/-- The phases in the order of the table: the one with code `k` stands at place `k`. -/
def phaseTable : List Phase :=
  [.idle, .acq, .ior, .iow, .wait .poll, .wait .w1, .txCmd, .wait .w2, .txAddr, .wait .wObf, .rxData, .wait .w3, .txVal,
    .wait .w4, .done, .failed]

/-- The phase that a code names. -/
def phaseOfCode (c : BitVec 4) : Phase := phaseTable.getD c.toNat .failed

theorem phaseOfCode_phaseCode (ph : Phase) : phaseOfCode (phaseCode ph) = ph := by
  cases ph with
  | wait x => cases x <;> rfl
  | _ => rfl

theorem phaseCode_phaseOfCode : ∀ c : BitVec 4, phaseCode (phaseOfCode c) = c := by decide

/-- Settles O48: `phaseOfCode` is the inverse of `phaseCode` on both sides. -/
theorem phaseCodesNameEveryValueOnce : Obligations.PhaseCodesNameEveryValueOnce :=
  ⟨fun c => ⟨phaseOfCode c, phaseCode_phaseOfCode c⟩,
    fun _ _ h => Function.LeftInverse.injective phaseOfCode_phaseCode h, by decide⟩

/-- The phase a wait goes to when its flag is read (10_state.md R21). -/
def successPhase : WaitPhase → Phase
  | .poll => .done
  | .w1 => .txCmd
  | .w2 => .txAddr
  | .wObf => .rxData
  | .w3 => .txVal
  | .w4 => .done

theorem nextPhase_wait (o : Op) (x : WaitPhase) : nextPhase o (.wait x) = some (successPhase x) := by
  cases x <;> rfl

/-- A success from counter 0, where each attempt that ends a wait puts it, only changes the phase. -/
theorem State.onSuccess_eq (x : WaitPhase) (s : State) (hn : s.n = 0) : s.onSuccess x = { s with phase := successPhase x } := by
  cases x <;> simp [State.onSuccess, State.enter, State.finish, successPhase, ← hn]

/-- Every phase of a request lies between its issue and its end. -/
theorem inProgress_of_mem_phasesOf (i : Instr) (ph : Phase) (h : ph ∈ phasesOf i) : inProgress ph = true := by
  have hall : ∀ ph ∈ phasesOf i, inProgress ph = true := by cases i <;> simp [phasesOf, inProgress]
  exact hall ph h

/-! ## What one attempt of a wait does (41_polling.md R102; 42_transactions.md R123) -/

@[simp] theorem State.afterRead_phase (s : State) : s.afterRead.phase = s.phase := rfl
@[simp] theorem State.afterRead_op (s : State) : s.afterRead.op = s.op := rfl
@[simp] theorem State.afterRead_ps (s : State) : s.afterRead.ps = s.ps := rfl
@[simp] theorem State.afterRead_adr (s : State) : s.afterRead.adr = s.adr := rfl
@[simp] theorem State.afterRead_val (s : State) : s.afterRead.val = s.val := rfl
@[simp] theorem State.afterRead_wb (s : State) : s.afterRead.wb = s.wb := rfl
@[simp] theorem State.afterRead_we (s : State) : s.afterRead.we = s.we := rfl
@[simp] theorem State.afterRead_n (s : State) : s.afterRead.n = s.n := rfl
@[simp] theorem State.afterRead_st (s : State) : s.afterRead.st = some (s.answer .sc) := rfl
@[simp] theorem State.afterRead_res (s : State) : s.afterRead.res = s.res := rfl
@[simp] theorem State.afterRead_err (s : State) : s.afterRead.err = s.err := rfl
@[simp] theorem State.afterRead_ign (s : State) : s.afterRead.ign = s.ign := rfl
@[simp] theorem State.afterRead_gsc (s : State) : s.afterRead.gsc = s.gsc := rfl
@[simp] theorem State.afterRead_gdata (s : State) : s.afterRead.gdata = s.gdata := rfl
@[simp] theorem State.afterRead_cfg (s : State) : s.afterRead.cfg = s.cfg := rfl

/-- The state in which the wait `x` is left for the phase after it, with the mask `m`. -/
def State.leaveWait (x : WaitPhase) (m : BitVec 3) (s : State) : State :=
  { s.afterRead with n := 0, ign := m, phase := successPhase x }

/-- What one attempt of the wait `x` for bit `b` to read `e` does: the flag is read; or the timeout of an intermediate wait is recorded and
passed over; or a timeout is surfaced; or the wait goes on. -/
inductive AttemptMove (x : WaitPhase) (b : BitVec 3) (e : Bool) (s : State) : State → Prop where
  | matched : bitMatches (s.answer .sc) b e = true → AttemptMove x b e s (s.leaveWait x s.ign)
  | recorded (k : Nat) : bitMatches (s.answer .sc) b e = false → s.n + 1 = Config.pollLimit → ignIndex x = some k → s.cfg.policy = .compat →
      AttemptMove x b e s (s.leaveWait x (setIgn s.ign k))
  | surfaced : bitMatches (s.answer .sc) b e = false → s.n + 1 = Config.pollLimit → ignIndex x = none ∨ s.cfg.policy = .strict →
      AttemptMove x b e s ({ s.afterRead with n := 0 }.raise (timeoutRecord x { s.afterRead with n := 0 }))
  | retried : bitMatches (s.answer .sc) b e = false → s.n + 1 ≠ Config.pollLimit →
      AttemptMove x b e s { s.afterRead with n := s.n + 1 }.sleep

/-- The one inversion lemma of an attempt. -/
theorem State.attempt_move (x : WaitPhase) (b : BitVec 3) (e : Bool) (s : State) : AttemptMove x b e s (s.attempt x b e) := by
  cases hm : bitMatches (s.answer .sc) b e with
  | true =>
    rw [s.attempt_success x b e hm, State.onSuccess_eq x _ rfl]
    exact .matched hm
  | false =>
    by_cases hn : s.n + 1 = Config.pollLimit
    · rw [s.attempt_timeout x b e hm hn]
      rcases State.onTimeout_cases x { s.afterRead with n := 0 } with ⟨k, hk, hpol, h⟩ | ⟨hpol, h⟩ <;> rw [h]
      · rw [State.onSuccess_eq x _ rfl]
        exact .recorded k hm hn hk hpol
      · exact .surfaced hm hn hpol
    · rw [s.attempt_retry x b e hm hn]
      exact .retried hm hn

/-! ## What the step in ACQ does (40_port_access.md R90) -/

/-- The one inversion lemma of the step in ACQ: the port is held already, the draw is GRANTED, or it is DENIED. -/
theorem acquireStep_cases (p : PortSel) (s : State) :
    (s.holds p = true ∧ acquireStep p s = s.finish) ∨
      (s.holds p = false ∧ s.grantDraw = .granted ∧ acquireStep p s = ((s.acquireDraw p).grant p).finish) ∨
      (s.holds p = false ∧ s.grantDraw = .denied ∧ acquireStep p s = (s.acquireDraw p).raise (permissionRecord p)) := by
  unfold acquireStep
  cases s.holds p with
  | true => exact .inl ⟨rfl, rfl⟩
  | false =>
    cases s.grantDraw with
    | granted => exact .inr (.inl ⟨rfl, rfl, rfl⟩)
    | denied => exact .inr (.inr ⟨rfl, rfl, rfl⟩)

/-! ## Reset (10_state.md R40) -/

/-- Settles O40: both reset states are `State.resetWith` of a table, whose registers are literals. -/
theorem resetLeavesTheStatedValues : Obligations.ResetLeavesTheStatedValues := by
  have hreset : ∀ c, let s := State.resetWith c
      s.phase = .idle ∧ s.n = 0 ∧ s.op = none ∧ s.ps = none ∧ s.adr = none ∧ s.val = none ∧ s.wb = none ∧ s.we = none ∧
      s.st = none ∧ s.res = none ∧ s.err = none ∧ s.ign = 0#3 ∧ s.gsc = false ∧ s.gdata = false := by
    simp [State.resetWith]
  rintro s (rfl | ⟨c, rfl⟩)
  · exact hreset Config.presumed
  · exact hreset c

/-! ## The configuration (10_state.md R26, R41) -/

@[simp] theorem State.issue_cfg (i : Instr) (s : State) : (s.issue i).cfg = s.cfg := by
  rcases s.issue_cases i with ⟨_, h⟩ | ⟨_, _, h⟩ <;> simp [h]

@[simp] theorem State.refuseWord_cfg (w : RequestWord) (s : State) : (s.refuseWord w).cfg = s.cfg := by
  simp [State.refuseWord]

@[simp] theorem State.leaveWait_cfg (x : WaitPhase) (m : BitVec 3) (s : State) : (s.leaveWait x m).cfg = s.cfg := by
  simp [State.leaveWait]

theorem AttemptMove.cfg_eq {x : WaitPhase} {b : BitVec 3} {e : Bool} {s t : State} (h : AttemptMove x b e s t) : t.cfg = s.cfg := by
  cases h <;> simp

theorem acquireStep_cfg (p : PortSel) (s : State) : (acquireStep p s).cfg = s.cfg := by
  rcases acquireStep_cases p s with ⟨_, h⟩ | ⟨_, _, h⟩ | ⟨_, _, h⟩ <;> simp [h]

theorem EngineMove.cfg_eq {i : Instr} {s t : State} (h : EngineMove i s t) : t.cfg = s.cfg := by
  cases h with
  | acquires p _ _ => exact acquireStep_cfg p s
  | reads p _ _ => simp [inbStep]
  | writes p v _ _ => simp [outbStep]
  | polls x b e _ _ _ _ => exact (s.attempt_move x b e).cfg_eq
  | sends p v x _ => simp [sendStep]
  | receives _ _ _ => simp [receiveStep]

/-- Settles O45. -/
theorem configurationNeverChanges : Obligations.ConfigurationNeverChanges := by
  intro s t h
  obtain ⟨_, hmove⟩ := step_next s t h
  cases hmove with
  | waits _ _ => rfl
  | issues w rest i _ _ _ => simp
  | refuses w rest why _ _ _ => simp
  | collectsDone _ => simp
  | collectsFailed _ => simp
  | engine i t _ _ hm => exact hm.cfg_eq

/-! ## The grants (10_state.md R25) -/

@[simp] theorem State.issue_gsc (i : Instr) (s : State) : (s.issue i).gsc = s.gsc := by
  rcases s.issue_cases i with ⟨_, h⟩ | ⟨_, _, h⟩ <;> simp [h]

@[simp] theorem State.issue_gdata (i : Instr) (s : State) : (s.issue i).gdata = s.gdata := by
  rcases s.issue_cases i with ⟨_, h⟩ | ⟨_, _, h⟩ <;> simp [h]

@[simp] theorem State.refuseWord_gsc (w : RequestWord) (s : State) : (s.refuseWord w).gsc = s.gsc := by
  simp [State.refuseWord]

@[simp] theorem State.refuseWord_gdata (w : RequestWord) (s : State) : (s.refuseWord w).gdata = s.gdata := by
  simp [State.refuseWord]

@[simp] theorem State.leaveWait_gsc (x : WaitPhase) (m : BitVec 3) (s : State) : (s.leaveWait x m).gsc = s.gsc := by
  simp [State.leaveWait]

@[simp] theorem State.leaveWait_gdata (x : WaitPhase) (m : BitVec 3) (s : State) : (s.leaveWait x m).gdata = s.gdata := by
  simp [State.leaveWait]

theorem AttemptMove.grants_eq {x : WaitPhase} {b : BitVec 3} {e : Bool} {s t : State} (h : AttemptMove x b e s t) :
    t.gsc = s.gsc ∧ t.gdata = s.gdata := by
  cases h <;> simp

/-- The step in ACQ either leaves both grants as they are, or adds one on a GRANTED draw (40_port_access.md R90). -/
theorem acquireStep_grants (p : PortSel) (s : State) :
    (acquireStep p s).gsc = s.gsc ∧ (acquireStep p s).gdata = s.gdata ∨
      s.grantDraw = .granted ∧ (s.gsc = true → (acquireStep p s).gsc = true) ∧ (s.gdata = true → (acquireStep p s).gdata = true) := by
  rcases acquireStep_cases p s with ⟨_, h⟩ | ⟨_, hd, h⟩ | ⟨_, _, h⟩ <;> rw [h]
  · exact .inl (by simp)
  · exact .inr ⟨hd, by cases p <;> simp⟩
  · exact .inl (by simp)

/-- The Engine's move leaves both grants as they are, but for a GRANTED draw in ACQ, which clears none. -/
theorem EngineMove.grants {i : Instr} {s t : State} (h : EngineMove i s t) :
    t.gsc = s.gsc ∧ t.gdata = s.gdata ∨
      (s.phase = .acq ∧ s.grantDraw = .granted) ∧ (s.gsc = true → t.gsc = true) ∧ (s.gdata = true → t.gdata = true) := by
  cases h with
  | acquires p _ hph =>
    rcases acquireStep_grants p s with hsame | ⟨hd, hkept⟩
    · exact .inl hsame
    · exact .inr ⟨⟨hph, hd⟩, hkept⟩
  | reads p _ _ => exact .inl (by simp [inbStep])
  | writes p v _ _ => exact .inl (by simp [outbStep])
  | polls x b e _ _ _ _ => exact .inl (s.attempt_move x b e).grants_eq
  | sends p v x _ => exact .inl (by simp [sendStep])
  | receives _ _ _ => exact .inl (by simp [receiveStep])

theorem StepMove.grants {s t : State} (h : StepMove s t) :
    t.gsc = s.gsc ∧ t.gdata = s.gdata ∨
      (s.phase = .acq ∧ s.grantDraw = .granted) ∧ (s.gsc = true → t.gsc = true) ∧ (s.gdata = true → t.gdata = true) := by
  cases h with
  | waits _ _ => exact .inl ⟨rfl, rfl⟩
  | issues w rest i _ _ _ => exact .inl (by simp)
  | refuses w rest why _ _ _ => exact .inl (by simp)
  | collectsDone _ => exact .inl (by simp)
  | collectsFailed _ => exact .inl (by simp)
  | engine i t _ _ hm => exact hm.grants

/-- Settles O44. -/
theorem grantsAreNeverCleared : Obligations.GrantsAreNeverCleared := by
  intro s t h
  obtain ⟨_, hmove⟩ := step_next s t h
  rcases hmove.grants with ⟨hsc, hdata⟩ | ⟨hdraw, hsc, hdata⟩
  · exact ⟨hsc.trans, hdata.trans, fun hne => absurd hdata (hne.resolve_left (not_not_intro hsc))⟩
  · exact ⟨hsc, hdata, fun _ => hdraw⟩

/-! ## The host interface (10_state.md R27, R28) -/

/-- While a request is in flight the next move is the Engine's. -/
theorem move_inProgress (s : State) (h : inProgress s.phase = true) : move s = engineStep s := by
  unfold move
  cases hph : s.phase <;> simp_all [inProgress]

/-- The Engine's step runs the request in flight. -/
theorem engineStep_inFlight (s : State) (i : Instr) (hp : inProgress s.phase = true) (hi : inFlight s = some i) :
    engineStep s = exec i s := by
  unfold engineStep
  cases hph : s.phase <;> simp_all [inProgress]

theorem engineStep_refused (s : State) (h : inProgress s.phase = false) : engineStep s = .refused .stepNotEnabled := by
  unfold engineStep
  cases hph : s.phase <;> simp_all [inProgress]

/-- Settles O7. -/
theorem stepRunsTheRequestInFlight : Obligations.StepRunsTheRequestInFlight := by
  intro s i hwf hp hi
  calc step s = move s := if_pos hwf
    _ = engineStep s := move_inProgress s hp
    _ = exec i s := engineStep_inFlight s i hp hi

/-- A request that is not in flight has no move outside IDLE. -/
theorem exec_refused (s : State) (i : Instr) (hidle : s.phase ≠ .idle) (hi : inFlight s ≠ some i) :
    exec i s = .refused .issueOutsideIdle := by
  rw [exec_eq_request]
  unfold request
  cases hph : s.phase <;> simp_all

theorem exec_idle (s : State) (i : Instr) (h : s.phase = .idle) : exec i s = .next (s.issue i) := by
  rw [exec_eq_request, request_idle _ _ _ h]

/-- In IDLE every word is answered: a request by its issue, any other word by its refusal. -/
theorem issueWord_idle (w : RequestWord) (s : State) (h : s.phase = .idle) : ∃ t, issueWord w s = .next t := by
  cases hd : decode w with
  | request i => exact ⟨s.issue i, by simp [issueWord, h, hd, exec_idle]⟩
  | rejected why => exact ⟨s.refuseWord w, by simp [issueWord, h, hd]⟩

theorem issueWord_refused (w : RequestWord) (s : State) (h : s.phase ≠ .idle) : issueWord w s = .refused .issueOutsideIdle := by
  unfold issueWord
  split
  · next hidle => exact absurd hidle h
  · rfl

theorem collect_done (s : State) (h : s.phase = .done) : collect s = .next (s.collected .done) := by
  simp [collect, h]

theorem collect_failed (s : State) (h : s.phase = .failed) : collect s = .next (s.collected .failed) := by
  simp [collect, h]

theorem collect_refused (s : State) (hd : s.phase ≠ .done) (hf : s.phase ≠ .failed) : collect s = .refused .collectNotEnabled := by
  unfold collect
  split
  · next h => exact absurd h hd
  · next h => exact absurd h hf
  · rfl

/-- The queue the Host goes on with is its own, but for the CLI Host after a failure (log 6). -/
theorem queueAfter_eq (k : HostKind) (o : Ending) (q : List RequestWord) (h : k = .bench ∨ o = .done) : queueAfter k o q = q := by
  rcases h with rfl | rfl
  · rfl
  · cases k <;> rfl

/-- Settles O49. -/
theorem collectReturnsTheRecord : Obligations.CollectReturnsTheRecord := by
  intro s
  refine ⟨fun hd => ?_, fun hf hk => ?_, fun hf hk => ?_⟩
  · rw [collect_done s hd, State.collected, queueAfter_eq _ _ _ (.inr rfl)]
    rfl
  · rw [collect_failed s hf, State.collected, queueAfter_eq _ _ _ (.inl hk)]
    rfl
  · rw [collect_failed s hf, State.collected, hk]
    rfl

/-- In a consistent state each wait phase holds the bit and the value it tests. -/
theorem Consistent.target_held {s : State} (hs : Consistent s) (i : Instr) (x : WaitPhase) (hi : inFlight s = some i)
    (hph : s.phase = .wait x) (hx : Phase.wait x ∈ phasesOf i) : ∃ b e, s.wb = some b ∧ s.we = some e := by
  cases ht : waitTarget s.cfg x with
  | some be => exact ⟨be.1, be.2, hs.tested x be.1 be.2 hph ht⟩
  | none =>
    obtain ⟨_, hregs⟩ := inFlight_registers s i hi
    cases x <;> cases ht
    cases i <;> simp [phasesOf] at hx
    exact ⟨_, _, hregs⟩

/-- In its phases that are no waits a request's engine always answers a next state. -/
theorem exec_other_phase (s : State) (i : Instr) (hi : inFlight s = some i) (hph : s.phase ∈ phasesOf i)
    (hw : ∀ x, s.phase ≠ .wait x) : ∃ t, exec i s = .next t := by
  rw [exec_eq_request, request_inFlight _ _ _ (inProgress_of_mem_phasesOf i _ hph) hi]
  cases i <;> simp only [phasesOf, List.mem_cons, List.not_mem_nil, or_false] at hph
  case acquire p => exact ⟨_, by simp [engineOf, acquireEngine, hph]; rfl⟩
  case inb p => exact ⟨_, by simp [engineOf, inbEngine, hph]; rfl⟩
  case outb p v => exact ⟨_, by simp [engineOf, outbEngine, hph]; rfl⟩
  case wait b e => exact absurd hph (hw _)
  case read a => rcases hph with h | h | h | h | h | h <;> simp [engineOf, readEngine, h] <;> exact absurd h (hw _)
  case write a v => rcases hph with h | h | h | h | h | h | h <;> simp [engineOf, writeEngine, h] <;> exact absurd h (hw _)

/-- The Engine never stops in a consistent state with a request in flight. -/
theorem Consistent.engineStep_next {s : State} (hs : Consistent s) (hp : inProgress s.phase = true) :
    ∃ t, engineStep s = .next t := by
  obtain ⟨i, hi, hph⟩ := hs.latched hp
  rw [engineStep_inFlight s i hp hi]
  by_cases hw : ∃ x, s.phase = .wait x
  · obtain ⟨x, hx⟩ := hw
    obtain ⟨b, e, hb, he⟩ := hs.target_held i x hi hx (hx ▸ hph)
    exact ⟨_, exec_wait_phase s i x b e hx hi (hx ▸ hph) hb he⟩
  · exact exec_other_phase s i hi hph fun x hx => hw ⟨x, hx⟩

/-- Settles O13. -/
theorem hostEventsOnlyWhereEnabled : Obligations.HostEventsOnlyWhereEnabled := by
  intro s hs
  refine ⟨fun w => issueWord_idle w s, fun w => issueWord_refused w s, fun i => exec_refused s i, ?_, collect_refused s, ?_, ?_⟩
  · rintro (hd | hf)
    · exact ⟨_, collect_done s hd⟩
    · exact ⟨_, collect_failed s hf⟩
  · exact fun h1 h2 h3 => hs.engineStep_next (inProgress_of_ne s.phase h1 h2 h3)
  · rintro (h | h | h) <;> exact engineStep_refused s (by rw [h]; rfl)

/-! ## The phases of one step (10_state.md R21) -/

/-- What a step of the request `i` may do to the phase: go to the next one of the table, stay in a wait with one attempt more counted,
or fail, in ACQ on a DENIED draw or in a wait on a timeout that is surfaced. -/
def FollowsTable (i : Instr) (s t : State) : Prop :=
  nextPhase i.op s.phase = some t.phase ∨
    (∃ x, s.phase = .wait x ∧ t.phase = .wait x ∧ s.n + 1 ≠ 100 ∧ t.n = s.n + 1) ∨
    (s.phase = .acq ∧ t.phase = .failed ∧ s.grantDraw = .denied) ∨
    (∃ x, s.phase = .wait x ∧ t.phase = .failed ∧ s.n + 1 = 100 ∧ (x ∉ [.w1, .w2, .w3] ∨ s.cfg.policy = .strict))

/-- A wait without a bit of `IGN` is none of the intermediate ones. -/
theorem not_intermediate_of_ignIndex (x : WaitPhase) (h : ignIndex x = none) : x ∉ [.w1, .w2, .w3] := by
  cases x with
  | poll | wObf | w4 => decide
  | w1 | w2 | w3 => cases h

theorem AttemptMove.follows {x : WaitPhase} {b : BitVec 3} {e : Bool} {s t : State} (h : AttemptMove x b e s t) (i : Instr)
    (hph : s.phase = .wait x) : FollowsTable i s t := by
  have hnext : nextPhase i.op s.phase = some (successPhase x) := hph ▸ nextPhase_wait i.op x
  cases h with
  | matched _ => exact .inl hnext
  | recorded k _ _ _ _ => exact .inl hnext
  | surfaced _ hn hpol => exact .inr (.inr (.inr ⟨x, hph, rfl, hn, hpol.imp_left (not_intermediate_of_ignIndex x)⟩))
  | retried _ hn => exact .inr (.inl ⟨x, hph, hph, hn, rfl⟩)

theorem acquireStep_phase (p : PortSel) (s : State) :
    (acquireStep p s).phase = .done ∨ (acquireStep p s).phase = .failed ∧ s.grantDraw = .denied := by
  rcases acquireStep_cases p s with ⟨_, h⟩ | ⟨_, _, h⟩ | ⟨_, hd, h⟩ <;> rw [h]
  · exact .inl rfl
  · exact .inl rfl
  · exact .inr ⟨rfl, hd⟩

/-- The three send steps of the request `i`: what `EngineMove.sends` says of the port `p`, the byte `v` and the wait `x` entered. -/
def SendsThen (i : Instr) (s : State) (p : PortSel) (v : Byte) (x : WaitPhase) : Prop :=
  s.phase = .txCmd ∧ p = .sc ∧ x = .w2 ∧
      ((∃ a, i = .read a ∧ v = s.cfg.cmdRead) ∨ (∃ a w, i = .write a w ∧ v = s.cfg.cmdWrite)) ∨
    s.phase = .txAddr ∧ p = .data ∧ ((i = .read v ∧ x = .wObf) ∨ ((∃ w, i = .write v w) ∧ x = .w3)) ∨
    s.phase = .txVal ∧ p = .data ∧ x = .w4 ∧ ∃ a, i = .write a v

/-- A send step is followed by the wait that the table gives for its operation, a wait of the request (42_transactions.md R118). -/
theorem SendsThen.next_wait {i : Instr} {s : State} {p : PortSel} {v : Byte} {x : WaitPhase} (h : SendsThen i s p v x) :
    nextPhase i.op s.phase = some (.wait x) ∧ Phase.wait x ∈ phasesOf i ∧ i.op ≠ .wait := by
  rcases h with ⟨hph, _, rfl, ⟨a, rfl, _⟩ | ⟨a, w, rfl, _⟩⟩ | ⟨hph, _, ⟨rfl, rfl⟩ | ⟨⟨w, rfl⟩, rfl⟩⟩ | ⟨hph, _, rfl, a, rfl⟩ <;>
    rw [hph] <;> simp [nextPhase, phasesOf, Instr.op]

theorem EngineMove.follows {i : Instr} {s t : State} (h : EngineMove i s t) : FollowsTable i s t := by
  cases h with
  | acquires p _ hph =>
    rcases acquireStep_phase p s with hdone | ⟨hfailed, hd⟩
    · exact .inl (by rw [hdone, hph]; rfl)
    · exact .inr (.inr (.inl ⟨hph, hfailed, hd⟩))
  | reads p _ hph => exact .inl (by rw [hph]; rfl)
  | writes p v _ hph => exact .inl (by rw [hph]; rfl)
  | polls x b e hph _ _ _ => exact (s.attempt_move x b e).follows i hph
  | sends p v x hsend => 
    have hnext := (SendsThen.next_wait hsend).1
    exact .inl (by simpa [sendStep] using hnext)
  | receives _ _ hph => exact .inl (by rw [hph]; rfl)

/-- A step with a request in flight is the Engine's move of that request. -/
theorem step_inFlight (s t : State) (i : Instr) (hp : inProgress s.phase = true) (hi : inFlight s = some i) (h : step s = .next t) :
    EngineMove i s t := by
  obtain ⟨hwf, _⟩ := step_next s t h
  rw [stepRunsTheRequestInFlight s i hwf hp hi] at h
  rcases exec_next i s t h with ⟨hidle, _⟩ | ⟨_, _, hm⟩
  · rw [hidle] at hp
    cases hp
  · exact hm

/-- Settles O35. -/
theorem phasesFollowTheTable : Obligations.PhasesFollowTheTable :=
  fun s t i hp hi h => (step_inFlight s t i hp hi h).follows

end Sys2Proof.Machine
end

section
/-! PROOFS of the family 10_state.md: the Engine's invariant (R20, R21) holds at reset, and every step keeps it. -/

open Sys2Proof Sys2Proof.Machine

namespace Sys2Proof.Machine

/-! ## What the invariant says of a request in flight -/

theorem ne_of_inProgress {ph : Phase} (h : inProgress ph = true) : ph ≠ .idle ∧ ph ≠ .done ∧ ph ≠ .failed := by
  refine ⟨?_, ?_, ?_⟩ <;> rintro rfl <;> cases h

theorem Consistent.res_none {s : State} (hs : Consistent s) (hp : inProgress s.phase = true) : s.res = none := by
  obtain ⟨hidle, hdone, _⟩ := ne_of_inProgress hp
  exact hs.noEarlyResult hidle hdone

theorem Consistent.err_none {s : State} (hs : Consistent s) (hp : inProgress s.phase = true) : s.err = none := by
  obtain ⟨hidle, _, hfailed⟩ := ne_of_inProgress hp
  simpa [hfailed] using hs.errorOfFailures hidle

/-- A request stays in flight while `OP` and its operand registers are kept; `WB` and `WE` are operands of WAIT only. -/
theorem inFlight_of_registers_kept {s t : State} {i : Instr} (hi : inFlight s = some i) (hop : t.op = s.op) (hps : t.ps = s.ps)
    (hadr : t.adr = s.adr) (hval : t.val = s.val) (hw : i.op = .wait → t.wb = s.wb ∧ t.we = s.we) : inFlight t = some i := by
  have hregs := inFlight_registers s i hi
  cases i <;> simp_all [inFlight, Instr.op]

/-! ## The mask `IGN` (10_state.md R20; 42_transactions.md R126) -/

theorem mayBeIgnored_of_ended {ph : Phase} (h : inProgress ph = false) : mayBeIgnored ph = 7#3 := by
  cases ph <;> simp_all [inProgress, mayBeIgnored]

/-- The bits that may be set grow along the phase table. -/
theorem mayBeIgnored_grows {o : Op} {ph next : Phase} (h : nextPhase o ph = some next) :
    mayBeIgnored ph &&& ~~~mayBeIgnored next = 0#3 := by
  cases ph with
  | wait x => cases x <;> cases h <;> decide
  | txAddr => cases o <;> cases h <;> decide
  | _ => cases h <;> decide

/-- A mask within `p` is within every larger one. -/
theorem mask_within_trans {w : Nat} {m p q : BitVec w} (hm : m &&& ~~~p = 0#w) (hp : p &&& ~~~q = 0#w) : m &&& ~~~q = 0#w := by
  refine BitVec.eq_of_getLsbD_eq fun k hk => ?_
  have hmk := congrArg (BitVec.getLsbD · k) hm
  have hpk := congrArg (BitVec.getLsbD · k) hp
  simp [hk] at hmk hpk ⊢
  exact fun h => hpk (hmk h)

/-- The bit of a wait may be set from the phase after it on. -/
theorem setIgn_within {x : WaitPhase} {k : Nat} {m : BitVec 3} (hk : ignIndex x = some k)
    (hm : m &&& ~~~mayBeIgnored (.wait x) = 0#3) : setIgn m k &&& ~~~mayBeIgnored (successPhase x) = 0#3 := by
  cases x <;> cases hk <;> revert m <;> decide

/-! ## How a state of each kind of phase is consistent -/

/-- A state with no request in flight, whose counter is 0, leaves only the result registers to check. -/
theorem Consistent.of_ended {s : State} (hp : inProgress s.phase = false) (hn : s.n = 0)
    (hearly : s.phase ≠ .idle → s.phase ≠ .done → s.res = none)
    (hreads : s.phase = .done → (s.res.isSome = true ↔ s.op = some .inb ∨ s.op = some .read))
    (herr : s.phase ≠ .idle → (s.err.isSome = true ↔ s.phase = .failed)) (hshape : ∀ e, s.err = some e → recordShaped e = true)
    (hstrict : s.cfg.policy = .strict → s.ign = 0#3) : Consistent s where
  counterBelowLimit := by rw [hn]; decide
  counterOnlyInWaits _ := hn
  latched h := by simp [hp] at h
  tested x b e h := by simp [h, inProgress] at hp
  granted h := by simp [hp] at h
  noEarlyResult := hearly
  outputSeen h := by simp [h, inProgress] at hp
  resultOfReads := hreads
  errorOfFailures := herr
  recordShape := hshape
  maskInOrder := by simp [mayBeIgnored_of_ended hp]
  strictMask := hstrict

theorem Consistent.of_idle {s : State} (hph : s.phase = .idle) (hn : s.n = 0) (hshape : ∀ e, s.err = some e → recordShaped e = true)
    (hstrict : s.cfg.policy = .strict → s.ign = 0#3) : Consistent s :=
  .of_ended (by rw [hph]; rfl) hn (by simp [hph]) (by simp [hph]) (by simp [hph]) hshape hstrict

theorem Consistent.of_done {s : State} (hph : s.phase = .done) (hn : s.n = 0) (herr : s.err = none)
    (hreads : s.res.isSome = true ↔ s.op = some .inb ∨ s.op = some .read) (hstrict : s.cfg.policy = .strict → s.ign = 0#3) :
    Consistent s :=
  .of_ended (by rw [hph]; rfl) hn (by simp [hph]) (fun _ => hreads) (by simp [hph, herr]) (by simp [herr]) hstrict

theorem Consistent.of_failed {s : State} {e : ErrRecord} (hph : s.phase = .failed) (hn : s.n = 0) (hres : s.res = none)
    (herr : s.err = some e) (hshape : recordShaped e = true) (hstrict : s.cfg.policy = .strict → s.ign = 0#3) : Consistent s :=
  .of_ended (by rw [hph]; rfl) hn (fun _ _ => hres) (by simp [hph]) (by simp [hph, herr])
    (fun e' he => by rw [herr] at he; cases he; exact hshape) hstrict

theorem Consistent.of_inFlight {s : State} {i : Instr} (hi : inFlight s = some i) (hph : s.phase ∈ phasesOf i)
    (hlimit : s.n < Config.pollLimit) (hn : (∀ x, s.phase ≠ .wait x) → s.n = 0)
    (htested : ∀ x b e, s.phase = .wait x → waitTarget s.cfg x = some (b, e) → s.wb = some b ∧ s.we = some e)
    (hgrants : s.phase ≠ .acq → s.bothGrants = true) (hres : s.res = none) (herr : s.err = none)
    (hseen : s.phase = .rxData → ∃ v, s.st = some v ∧ obf s.cfg v = true) (hmask : s.ign &&& ~~~mayBeIgnored s.phase = 0#3)
    (hstrict : s.cfg.policy = .strict → s.ign = 0#3) : Consistent s := by
  obtain ⟨hidle, hdone, hfailed⟩ := ne_of_inProgress (inProgress_of_mem_phasesOf i _ hph)
  exact
    { counterBelowLimit := hlimit
      counterOnlyInWaits := hn
      latched := fun _ => ⟨i, hi, hph⟩
      tested := htested
      granted := fun _ => hgrants
      noEarlyResult := fun _ _ => hres
      outputSeen := hseen
      resultOfReads := fun h => absurd h hdone
      errorOfFailures := fun _ => by simp [herr, hfailed]
      recordShape := by simp [herr]
      maskInOrder := hmask
      strictMask := hstrict }

/-- Settles O41. -/
theorem resetIsConsistent : Obligations.ResetIsConsistent := by
  have hreset : ∀ c, Consistent (State.resetWith c) := fun c =>
    .of_idle rfl rfl (by simp [State.resetWith]) fun _ => rfl
  exact ⟨hreset Config.presumed, hreset⟩

/-! ## The Host's moves -/

theorem entryPhase_mem (i : Instr) : entryPhase i ∈ phasesOf i := by
  cases i <;> simp [entryPhase, phasesOf]

theorem recordShaped_permission (p : PortSel) : recordShaped (permissionRecord p) = true := by
  simp [recordShaped, permissionRecord]

theorem recordShaped_refused (w : RequestWord) : recordShaped (refusedRecord w) = true := by
  simp [recordShaped, refusedRecord]

/-- Every issue leaves a consistent state, whatever the registers held before: it clears them all (10_state.md R29). -/
theorem consistent_issue (i : Instr) (s : State) : Consistent (s.issue i) := by
  rcases s.issue_cases i with ⟨hg, h⟩ | ⟨_, _, h⟩ <;> rw [h]
  · have hi : inFlight ((s.clearRequest.latch i).enter (entryPhase i)) = some i := by
      refine inFlight_of_registers_kept (inFlight_latch i s.clearRequest) (by simp) (by simp) (by simp) (by simp) fun hw => ?_
      cases i <;> cases hw
      simp [entryPhase]
    refine .of_inFlight hi (by simpa using entryPhase_mem i) (by simp [Config.pollLimit]) (by simp) ?_ ?_ (by simp) (by simp) ?_
      (by simp) (by simp)
    · intro x b e hx ht
      rw [State.enter_phase] at hx
      rw [hx]
      exact State.enter_wait_target x b e _ (by simpa using ht)
    · intro hacq
      rcases hg with hg | hg
      · cases i <;> cases hg
        exact absurd (State.enter_phase _ _) hacq
      · simpa [State.bothGrants] using hg
    · intro hrx
      cases i <;> simp [entryPhase] at hrx
  · exact .of_failed rfl (by simp) (by simp) rfl (recordShaped_permission _) (by simp)

theorem consistent_refuseWord (w : RequestWord) (s : State) : Consistent (s.refuseWord w) :=
  .of_failed rfl rfl rfl rfl (recordShaped_refused w) fun _ => rfl

/-- The return keeps every register, and so what the invariant says of `ERR` and `IGN`. -/
theorem Consistent.after_collected {s : State} (hs : Consistent s) (o : Ending) (hph : s.phase = .done ∨ s.phase = .failed) :
    Consistent (s.collected o) := by
  have hn : s.n = 0 := hs.counterOnlyInWaits fun x hx => by simp [hx] at hph
  exact .of_idle rfl hn hs.recordShape hs.strictMask

/-! ## The Engine's moves -/

/-- In a phase in flight that is no wait the counter is 0, and `RES` and `ERR` are empty. -/
theorem Consistent.fresh {s : State} (hs : Consistent s) (hp : inProgress s.phase = true) (hw : ∀ x, s.phase ≠ .wait x) :
    s.n = 0 ∧ s.res = none ∧ s.err = none :=
  ⟨hs.counterOnlyInWaits hw, hs.res_none hp, hs.err_none hp⟩

theorem Consistent.after_acquireStep {s : State} (hs : Consistent s) (p : PortSel) (hi : inFlight s = some (.acquire p))
    (hph : s.phase = .acq) : Consistent (acquireStep p s) := by
  obtain ⟨hn, hres, herr⟩ := hs.fresh (by rw [hph]; rfl) (by simp [hph])
  obtain ⟨hop, _⟩ := inFlight_registers s _ hi
  rcases acquireStep_cases p s with ⟨_, h⟩ | ⟨_, _, h⟩ | ⟨_, _, h⟩ <;> rw [h]
  · exact .of_done rfl hn herr (by simp [hres, hop, Instr.op]) hs.strictMask
  · exact .of_done rfl (by simpa) (by simpa) (by simp [hres, hop, Instr.op]) (by simpa using hs.strictMask)
  · exact .of_failed rfl hn hres rfl (recordShaped_permission p) hs.strictMask

theorem Consistent.after_inbStep {s : State} (hs : Consistent s) (p : PortSel) (hi : inFlight s = some (.inb p)) (hph : s.phase = .ior) :
    Consistent (inbStep p s) := by
  obtain ⟨hn, _, herr⟩ := hs.fresh (by rw [hph]; rfl) (by simp [hph])
  obtain ⟨hop, _⟩ := inFlight_registers s _ hi
  unfold inbStep
  exact .of_done rfl (by simpa) (by simpa) (by simp [hop, Instr.op]) (by simpa using hs.strictMask)

theorem Consistent.after_outbStep {s : State} (hs : Consistent s) (p : PortSel) (v : Byte) (hi : inFlight s = some (.outb p v))
    (hph : s.phase = .iow) : Consistent (outbStep p v s) := by
  obtain ⟨hn, hres, herr⟩ := hs.fresh (by rw [hph]; rfl) (by simp [hph])
  obtain ⟨hop, _⟩ := inFlight_registers s _ hi
  exact .of_done rfl hn herr (by simp [outbStep, hres, hop, Instr.op]) hs.strictMask

theorem Consistent.after_receiveStep {s : State} (hs : Consistent s) (a : Byte) (hi : inFlight s = some (.read a))
    (hph : s.phase = .rxData) : Consistent (receiveStep s) := by
  obtain ⟨hn, _, herr⟩ := hs.fresh (by rw [hph]; rfl) (by simp [hph])
  obtain ⟨hop, _⟩ := inFlight_registers s _ hi
  exact .of_done rfl hn herr (by simp [receiveStep, hop, Instr.op]) hs.strictMask

/-- A send step enters the next wait with its own target (42_transactions.md R116, R118). -/
theorem Consistent.after_sendStep {s : State} (hs : Consistent s) {i : Instr} {p : PortSel} {v : Byte} {x : WaitPhase}
    (hp : inProgress s.phase = true) (hi : inFlight s = some i) (hsend : SendsThen i s p v x) : Consistent (sendStep p v x s) := by
  obtain ⟨hnext, hx, hop⟩ := hsend.next_wait
  have hacq : s.phase ≠ .acq := fun h => by simp [h, nextPhase] at hnext
  unfold sendStep
  refine .of_inFlight (i := i) ?_ (by simpa using hx) (by simp [Config.pollLimit]) (by simp) ?_ ?_
    (by simpa using hs.res_none hp) (by simpa using hs.err_none hp) (by simp) ?_ (by simpa using hs.strictMask)
  · exact inFlight_of_registers_kept hi (by simp) (by simp) (by simp) (by simp) fun hw => absurd hw hop
  · intro y b e hy ht
    obtain rfl : x = y := by simpa using hy
    exact State.enter_wait_target x b e _ (by simpa using ht)
  · intro _
    simpa [State.bothGrants] using hs.granted hp hacq
  · simpa using mask_within_trans hs.maskInOrder (mayBeIgnored_grows hnext)

/-- What follows a wait of the request: its end, for a request without a byte to return, or one of its phases that is no wait. -/
theorem successPhase_cases {i : Instr} {x : WaitPhase} (hx : Phase.wait x ∈ phasesOf i) :
    successPhase x = .done ∧ i.op ≠ .inb ∧ i.op ≠ .read ∨
      successPhase x ∈ phasesOf i ∧ (∀ y, successPhase x ≠ .wait y) ∧ (successPhase x = .rxData → x = .wObf) := by
  cases i <;> cases x <;> simp_all [phasesOf, successPhase, Instr.op]

/-- Leaving a wait for the phase after it, with a mask that phase admits; `RX_DATA` asks for OBF = 1 (70_reset_and_hazards.md R208). -/
theorem Consistent.after_leaveWait {s : State} (hs : Consistent s) {i : Instr} {x : WaitPhase} {m : BitVec 3} (hi : inFlight s = some i)
    (hph : s.phase = .wait x) (hx : Phase.wait x ∈ phasesOf i) (hmask : m &&& ~~~mayBeIgnored (successPhase x) = 0#3)
    (hstrict : s.cfg.policy = .strict → m = 0#3) (hseen : x = .wObf → obf s.cfg (s.answer .sc) = true) :
    Consistent (s.leaveWait x m) := by
  have hp : inProgress s.phase = true := by rw [hph]; rfl
  have hres : (s.leaveWait x m).res = none := hs.res_none hp
  have herr : (s.leaveWait x m).err = none := hs.err_none hp
  rcases successPhase_cases hx with ⟨hdone, hinb, hread⟩ | ⟨hmem, hnowait, hrx⟩
  · obtain ⟨hop, _⟩ := inFlight_registers s i hi
    have hop' : (s.leaveWait x m).op = some i.op := hop
    exact .of_done hdone rfl herr (by simp [hres, hop', hinb, hread]) hstrict
  · exact .of_inFlight (i := i) (inFlight_of_registers_kept hi rfl rfl rfl rfl fun _ => ⟨rfl, rfl⟩) hmem
      (by simp [State.leaveWait, Config.pollLimit]) (fun _ => rfl) (fun y _ _ hy => absurd hy (hnowait y))
      (fun _ => hs.granted hp (by simp [hph])) hres herr (fun h => ⟨_, rfl, hseen (hrx h)⟩) hmask hstrict

/-- A matching attempt of W_OBF has read OBF = 1 (42_transactions.md R116). -/
theorem Consistent.obf_of_match {s : State} (hs : Consistent s) {b : BitVec 3} {e : Bool} (hph : s.phase = .wait .wObf)
    (hb : s.wb = some b) (he : s.we = some e) (hm : bitMatches (s.answer .sc) b e = true) : obf s.cfg (s.answer .sc) = true := by
  obtain ⟨hb', he'⟩ := hs.tested .wObf _ _ hph rfl
  obtain rfl : b = obfBit s.cfg := Option.some.inj (hb.symm.trans hb')
  obtain rfl : e = true := Option.some.inj (he.symm.trans he')
  simpa [bitMatches, obf] using hm

/-- Every attempt keeps the invariant. -/
theorem Consistent.after_attempt {s t : State} (hs : Consistent s) {i : Instr} {x : WaitPhase} {b : BitVec 3} {e : Bool}
    (hi : inFlight s = some i) (hph : s.phase = .wait x) (hx : Phase.wait x ∈ phasesOf i) (hb : s.wb = some b)
    (he : s.we = some e) (h : AttemptMove x b e s t) : Consistent t := by
  have hp : inProgress s.phase = true := by rw [hph]; rfl
  have hmask : s.ign &&& ~~~mayBeIgnored (.wait x) = 0#3 := hph ▸ hs.maskInOrder
  cases h with
  | matched hm =>
    exact hs.after_leaveWait hi hph hx (mask_within_trans hmask (mayBeIgnored_grows (nextPhase_wait i.op x))) hs.strictMask
      fun hobf => hs.obf_of_match (hobf ▸ hph) hb he hm
  | recorded k _ _ hk hpol =>
    exact hs.after_leaveWait hi hph hx (setIgn_within hk hmask) (fun h => by rw [hpol] at h; cases h) fun hobf => by
      subst hobf
      cases hk
  | surfaced _ _ _ =>
    exact .of_failed rfl rfl (hs.res_none hp) rfl (by simp [recordShaped, timeoutRecord, hb, he]) hs.strictMask
  | retried _ hn =>
    exact .of_inFlight (i := i) (inFlight_of_registers_kept hi rfl rfl rfl rfl fun _ => ⟨rfl, rfl⟩) (hph ▸ hx)
      (lt_of_le_of_ne hs.counterBelowLimit hn) (fun h => absurd hph (h x)) hs.tested (hs.granted hp) (hs.res_none hp)
      (hs.err_none hp) (fun h => by simp [hph] at h) hs.maskInOrder hs.strictMask

theorem Consistent.after_engineMove {s t : State} (hs : Consistent s) {i : Instr} (hp : inProgress s.phase = true)
    (hi : inFlight s = some i) (h : EngineMove i s t) : Consistent t := by
  cases h with
  | acquires p hip hph => exact hs.after_acquireStep p (hip ▸ hi) hph
  | reads p hip hph => exact hs.after_inbStep p (hip ▸ hi) hph
  | writes p v hip hph => exact hs.after_outbStep p v (hip ▸ hi) hph
  | polls x b e hph hx hb he => exact hs.after_attempt hi hph hx hb he (s.attempt_move x b e)
  | sends p v x hsend => exact hs.after_sendStep hp hi hsend
  | receives a hia hph => exact hs.after_receiveStep a (hia ▸ hi) hph

/-- Settles O42: an issue makes the invariant, a return keeps it, and each of the Engine's moves keeps it. -/
theorem stepKeepsConsistent : Obligations.StepKeepsConsistent := by
  intro s t hs h
  obtain ⟨_, hmove⟩ := step_next s t h
  cases hmove with
  | waits _ _ => exact hs
  | issues w rest i _ _ _ => exact consistent_issue i _
  | refuses w rest why _ _ _ => exact consistent_refuseWord w _
  | collectsDone hph => exact hs.after_collected .done (.inl hph)
  | collectsFailed hph => exact hs.after_collected .failed (.inr hph)
  | engine i t hp hi hm => exact hs.after_engineMove hp hi hm

end Sys2Proof.Machine
end

section
/-! PROOFS of the family 30_encoding.md: the request word and its fields (R71, R74), the opcode table (R73), and the decoder
(R75, R76). -/

open Sys2Proof Sys2Proof.Laws

namespace Sys2Proof

/-! ## A word is its four fields, `0xOFAAVV` (30_encoding.md R71) -/

/-- Field `F`, bits 19:16, which holds `p`, or `e` and `b` (30_encoding.md R71, R74). -/
def fieldF (w : RequestWord) : BitVec 4 := w.extractLsb' 16 4

theorem fieldOp_toNat (w : RequestWord) : (fieldOp w).toNat = w.toNat / 2 ^ 20 := by
  have hw := w.isLt
  simp only [fieldOp, BitVec.extractLsb'_toNat, Nat.shiftRight_eq_div_pow]
  omega

theorem fieldF_toNat (w : RequestWord) : (fieldF w).toNat = w.toNat / 2 ^ 16 % 16 := by
  simp [fieldF, Nat.shiftRight_eq_div_pow]

theorem fieldAddress_toNat (w : RequestWord) : (fieldAddress w).toNat = w.toNat / 2 ^ 8 % 256 := by
  simp [fieldAddress, Nat.shiftRight_eq_div_pow]

theorem fieldValue_toNat (w : RequestWord) : (fieldValue w).toNat = w.toNat % 256 := by
  simp [fieldValue]

/-- No bit of a word lies outside its four fields. -/
theorem word_fields (w : RequestWord) : word (fieldOp w) (fieldF w) (fieldAddress w) (fieldValue w) = w := by
  refine BitVec.eq_of_toNat_eq ?_
  rw [word_toNat, fieldOp_toNat, fieldF_toNat, fieldAddress_toNat, fieldValue_toNat]
  omega

section
variable (op f : BitVec 4) (a v : Byte)

@[simp] theorem fieldOp_word : fieldOp (word op f a v) = op := by
  refine BitVec.eq_of_toNat_eq ?_
  rw [fieldOp_toNat, word_toNat]
  omega

@[simp] theorem fieldF_word : fieldF (word op f a v) = f := by
  refine BitVec.eq_of_toNat_eq ?_
  rw [fieldF_toNat, word_toNat]
  omega

@[simp] theorem fieldAddress_word : fieldAddress (word op f a v) = a := by
  refine BitVec.eq_of_toNat_eq ?_
  rw [fieldAddress_toNat, word_toNat]
  omega

@[simp] theorem fieldValue_word : fieldValue (word op f a v) = v := by
  refine BitVec.eq_of_toNat_eq ?_
  rw [fieldValue_toNat, word_toNat]
  omega

end

/-- A word is told by its four fields. -/
theorem word_eq_iff (op f : BitVec 4) (a v : Byte) (w : RequestWord) :
    word op f a v = w ↔ op = fieldOp w ∧ f = fieldF w ∧ a = fieldAddress w ∧ v = fieldValue w := by
  constructor
  · rintro rfl
    simp
  · rintro ⟨rfl, rfl, rfl, rfl⟩
    exact word_fields w

/-! ## The operands in `F` (30_encoding.md R74) -/

theorem fieldPort_eq (w : RequestWord) : fieldPort w = if (fieldF w).getLsbD 0 then .data else .sc := by
  simp [fieldPort, fieldF]

theorem fieldBit_eq (w : RequestWord) : fieldBit w = (fieldF w).extractLsb' 0 3 := by
  ext k hk
  simp [fieldBit, fieldF, show k < 4 by omega]

theorem fieldExpected_eq (w : RequestWord) : fieldExpected w = (fieldF w).getLsbD 3 := by
  simp [fieldExpected, fieldF]

section
variable (op : BitVec 4) (a v : Byte)

@[simp] theorem fieldPort_word (p : PortSel) : fieldPort (word op (0#3 ++ p.bit) a v) = p := by
  rw [fieldPort_eq, fieldF_word]
  cases p <;> rfl

@[simp] theorem fieldBit_word (b : BitVec 3) (e : Bool) : fieldBit (word op (BitVec.ofBool e ++ b) a v) = b := by
  rw [fieldBit_eq, fieldF_word]
  revert b e
  decide

@[simp] theorem fieldExpected_word (b : BitVec 3) (e : Bool) : fieldExpected (word op (BitVec.ofBool e ++ b) a v) = e := by
  rw [fieldExpected_eq, fieldF_word]
  revert b e
  decide

end

/-- Where the upper bits of `F` are 0, `F` is the port select. -/
theorem portBits_eq (w : RequestWord) (h : fieldF w &&& 0xE#4 = 0#4) : 0#3 ++ (fieldPort w).bit = fieldF w := by
  rw [fieldPort_eq]
  revert h
  generalize fieldF w = f
  revert f
  decide

/-- Every `F` is an expected value and a bit position. -/
theorem waitBits_eq (w : RequestWord) : BitVec.ofBool (fieldExpected w) ++ fieldBit w = fieldF w := by
  rw [fieldExpected_eq, fieldBit_eq]
  generalize fieldF w = f
  revert f
  decide

/-! ## The rows of the opcode table (30_encoding.md R73) -/

/-- The bits of `F` that the row of an operation fixes at 0. -/
def Op.zeroF : Op → BitVec 4
  | .acquire | .inb | .outb => 0xE#4
  | .wait => 0x0#4
  | .read | .write => 0xF#4

/-- The bits of `A` that the row of an operation fixes at 0. -/
def Op.zeroA : Op → Byte
  | .acquire | .inb | .outb | .wait => 0xFF#8
  | .read | .write => 0x00#8

/-- The bits of `V` that the row of an operation fixes at 0. -/
def Op.zeroV : Op → Byte
  | .acquire | .inb | .wait | .read => 0xFF#8
  | .outb | .write => 0x00#8

theorem Op.mask_eq (o : Op) : o.mask = word 0xF#4 o.zeroF o.zeroA o.zeroV := by
  cases o <;> decide

theorem Op.pattern_eq (o : Op) : o.pattern = word o.code 0#4 0#8 0#8 := by
  cases o <;> decide

theorem Op.code_injective : Function.Injective Op.code := by
  intro o o' h
  cases o <;> cases o' <;> cases h <;> rfl

theorem Op.mem_opcodeRows (o : Op) : o ∈ opcodeRows := by
  cases o <;> decide

theorem Op.spells_eq_true (o : Op) (w : RequestWord) : o.spells w = true ↔ w &&& o.mask = o.pattern := by
  simp [Op.spells]

/-- A word spells an operation when it has its opcode, and 0 in every other bit its row fixes. -/
theorem Op.spells_iff (o : Op) (w : RequestWord) :
    o.spells w = true ↔
      fieldOp w = o.code ∧ fieldF w &&& o.zeroF = 0#4 ∧ fieldAddress w &&& o.zeroA = 0#8 ∧ fieldValue w &&& o.zeroV = 0#8 := by
  have hop : ∀ x : BitVec 4, x &&& 0xF#4 = x := by decide
  rw [o.spells_eq_true, o.mask_eq, o.pattern_eq, ← word_fields w, word_and, word_eq_iff]
  simp [hop]

theorem Op.spells_code {o : Op} {w : RequestWord} (h : o.spells w = true) : fieldOp w = o.code :=
  ((o.spells_iff w).1 h).1

/-- The opcodes of two rows differ, so a word spells at most one operation. -/
theorem Op.spells_unique {o o' : Op} {w : RequestWord} (h : o.spells w = true) (h' : o'.spells w = true) : o' = o :=
  Op.code_injective ((Op.spells_code h').symm.trans (Op.spells_code h))

/-- The word of every request spells its operation (30_encoding.md R73). -/
theorem spells_encode (i : Instr) : i.op.spells (encode i) = true := by
  cases i with
  | acquire p => exact (EncodeSpells.acquire p).1
  | inb p => exact (EncodeSpells.inb p).1
  | outb p v => exact (EncodeSpells.outb p v).1
  | wait b e => exact (EncodeSpells.wait b e).1
  | read a => exact (EncodeSpells.read a).1
  | write a v => exact (EncodeSpells.write a v).1

/-! ## Reading the fields back and writing them out -/

/-- The operands are read back from the fields they were written to. -/
theorem instrOf_encode (i : Instr) : instrOf i.op (encode i) = i := by
  cases i <;> simp [instrOf, encode, Instr.op]

/-- A word that spells an operation is written again from the operands it holds: each bit that is no operand is fixed by the row. -/
theorem encode_instrOf {o : Op} {w : RequestWord} (h : o.spells w = true) : encode (instrOf o w) = w := by
  obtain ⟨hop, hf, ha, hv⟩ := (o.spells_iff w).1 h
  have hall : ∀ {n : Nat} {x : BitVec n}, x &&& BitVec.allOnes n = 0#n → 0#n = x := fun h => by simpa using h.symm
  cases o <;> refine (word_eq_iff _ _ _ _ w).2 ⟨hop.symm, ?_, ?_, ?_⟩
  case acquire.refine_1 | inb.refine_1 | outb.refine_1 => exact portBits_eq w hf
  case wait.refine_1 => exact waitBits_eq w
  case read.refine_1 | write.refine_1 => exact hall hf
  case acquire.refine_2 | inb.refine_2 | outb.refine_2 | wait.refine_2 => exact hall ha
  case read.refine_2 | write.refine_2 => rfl
  case acquire.refine_3 | inb.refine_3 | wait.refine_3 | read.refine_3 => exact hall hv
  case outb.refine_3 | write.refine_3 => rfl

/-! ## The decoder (30_encoding.md R73, R75, R76) -/

theorem decode_of_spells {o : Op} {w : RequestWord} (h : o.spells w = true) : decode w = .request (instrOf o w) := by
  unfold decode
  split
  · next o' hfind =>
    have ho' : o'.spells w = true := by simpa using List.find?_some hfind
    rw [Op.spells_unique h ho']
  · next hnone => exact absurd h (List.find?_eq_none.1 hnone o o.mem_opcodeRows)

/-- A word that spells no operation is rejected, by which of its bits are wrong (30_encoding.md R75). -/
theorem decode_of_spells_none {w : RequestWord} (h : ∀ o : Op, o.spells w ≠ true) : ∃ why, decode w = .rejected why := by
  unfold decode
  split
  · next o hfind => exact absurd (List.find?_some hfind) (h o)
  · split
    · exact ⟨_, rfl⟩
    · exact ⟨_, rfl⟩

/-- Settles O1: the encoding spells its operation, and its operands are read back. -/
theorem decodeOfEncodeIsSame : Obligations.DecodeOfEncodeIsSame := by
  intro i
  rw [decode_of_spells (spells_encode i), instrOf_encode]

/-- Settles O3: `Op.spells_unique` gives the one row, and `decode_of_spells_none` the refusal. -/
theorem everyWordMatchesOneRowOrIsRefused : Obligations.EveryWordMatchesOneRowOrIsRefused := by
  intro w
  simp only [ne_eq, ← Op.spells_eq_true]
  by_cases h : ∃ o : Op, o.spells w = true
  · obtain ⟨o, ho⟩ := h
    exact .inl ⟨o, ho, fun _ ho' => Op.spells_unique ho ho', decode_of_spells ho⟩
  · have hnone := not_exists.1 h
    exact .inr ⟨hnone, decode_of_spells_none hnone⟩

/-- Settles O2: a word that decodes to a request spells an operation, and is written again from the operands read. -/
theorem encodeOfDecodeIsSame : Obligations.EncodeOfDecodeIsSame := by
  intro w i hd
  rcases everyWordMatchesOneRowOrIsRefused w with ⟨o, ho, _, hrow⟩ | ⟨_, why, hrej⟩
  · obtain rfl : instrOf o w = i := by simpa [hrow] using hd
    exact encode_instrOf ((o.spells_eq_true w).2 ho)
  · rw [hrej] at hd
    cases hd

/-- Settles O4: `instrOf` with each field as the statement computes it from the word. -/
theorem rowsReadTheirFields : Obligations.RowsReadTheirFields := by
  intro w
  have hrow : ∀ o : Op, w &&& o.mask = o.pattern → decode w = .request (instrOf o w) := fun o h =>
    decode_of_spells ((o.spells_eq_true w).2 h)
  have hv : fieldValue w = BitVec.ofNat 8 (w.toNat % 256) := by
    rw [← fieldValue_toNat, BitVec.ofNat_toNat, BitVec.setWidth_eq]
  have ha : fieldAddress w = BitVec.ofNat 8 (w.toNat / 2 ^ 8 % 256) := by
    rw [← fieldAddress_toNat, BitVec.ofNat_toNat, BitVec.setWidth_eq]
  have hb : fieldBit w = BitVec.ofNat 3 (w.toNat / 2 ^ 16 % 8) := by
    refine BitVec.eq_of_toNat_eq ?_
    simp [fieldBit, Nat.shiftRight_eq_div_pow]
  rw [← hv, ← ha, ← hb]
  exact ⟨hrow .acquire, hrow .inb, hrow .outb, hrow .wait, hrow .read, hrow .write⟩

/-- Settles O5: the seven requests are read back from their encodings; the two other words have no row. -/
theorem encodingExamplesDecode : Obligations.EncodingExamplesDecode :=
  ⟨decodeOfEncodeIsSame (.read 0x07#8), decodeOfEncodeIsSame (.write 0x01#8 0x80#8), decodeOfEncodeIsSame (.wait 1#3 false),
    decodeOfEncodeIsSame (.wait 0#3 true), decodeOfEncodeIsSame (.outb .data 0xCE#8), decodeOfEncodeIsSame (.acquire .data),
    decodeOfEncodeIsSame (.inb .sc), by decide, by decide⟩

end Sys2Proof
end

section
/-! PROOFS of the family 30_encoding.md: the issue of a word (R75, R77) and the byte protocols of READ and WRITE (R78). -/

open Sys2Proof Sys2Proof.Machine

namespace Sys2Proof.Machine

/-! ## The issue of a word (30_encoding.md R75, R77) -/

/-- In IDLE the step issues the Host's next word (log 6). -/
theorem step_idle (s : State) (w : RequestWord) (rest : List RequestWord) (hwf : s.cfg.wf = true) (hidle : s.phase = .idle)
    (hq : s.hostQueue = w :: rest) : step s = issueWord w { s with hostQueue := rest } := by
  simp [step, move, hostTurn, hwf, hidle, hq]

theorem issueWord_request (w : RequestWord) (s : State) (i : Instr) (hidle : s.phase = .idle) (hd : decode w = .request i) :
    issueWord w s = exec i s := by
  simp [issueWord, hidle, hd]

theorem issueWord_rejected (w : RequestWord) (s : State) (why : Reject) (hidle : s.phase = .idle) (hd : decode w = .rejected why) :
    issueWord w s = .next (s.refuseWord w) := by
  simp [issueWord, hidle, hd]

/-- Settles O6. -/
theorem stepIssuesTheDecodedRequest : Obligations.StepIssuesTheDecodedRequest := by
  intro s w rest i hwf hidle hq hd
  rw [step_idle s w rest hwf hidle hq, issueWord_request w { s with hostQueue := rest } i hidle hd]

/-- The opcodes that 30_encoding.md R72 reserves are those of no row. -/
theorem reserved_ne_code (o : Op) : o.code ∉ [0x0#4, 0x5#4, 0x6#4, 0x7#4, 0xA#4, 0xB#4, 0xC#4, 0xD#4, 0xE#4, 0xF#4] := by
  cases o <;> decide

/-- A word with a reserved opcode, or with a must-be-zero bit of its row set, is rejected (30_encoding.md R75). -/
theorem decode_reserved (w : RequestWord)
    (h : fieldOp w ∈ [0x0#4, 0x5#4, 0x6#4, 0x7#4, 0xA#4, 0xB#4, 0xC#4, 0xD#4, 0xE#4, 0xF#4] ∨
      ∃ o : Op, fieldOp w = o.code ∧ w &&& o.mask ≠ o.pattern) : ∃ why, decode w = .rejected why := by
  refine decode_of_spells_none fun o ho => ?_
  rcases h with hres | ⟨o', hop, hbit⟩
  · exact reserved_ne_code o (Op.spells_code ho ▸ hres)
  · obtain rfl : o' = o := Op.code_injective (hop.symm.trans (Op.spells_code ho))
    exact hbit ((o'.spells_eq_true w).1 ho)

/-- Settles O9. -/
theorem reservedWordIsRefusedAtIssue : Obligations.ReservedWordIsRefusedAtIssue := by
  intro s w rest hwf hidle hq hres
  obtain ⟨why, hd⟩ := decode_reserved w hres
  rw [step_idle s w rest hwf hidle hq, issueWord_rejected w { s with hostQueue := rest } why hidle hd]
  rfl

/-- With the grants it needs, a request is latched over cleared registers and enters its phase. -/
theorem exec_enters (i : Instr) (s : State) (hidle : s.phase = .idle) (h : needsGrants i = false ∨ s.bothGrants = true) :
    exec i s = .next ((s.clearRequest.latch i).enter (entryPhase i)) := by
  rw [exec_idle s i hidle, s.issue_enters i h]

/-- Settles O10: the fields of `exec_enters`, request by request. -/
theorem issueClearsLatchesAndEnters : Obligations.IssueClearsLatchesAndEnters := by
  intro s hidle
  refine ⟨fun p => exec_enters (.acquire p) s hidle (.inl rfl), fun hsc hdata => ?_⟩
  have hg : s.bothGrants = true := by simp [State.bothGrants, hsc, hdata]
  exact ⟨fun p => exec_enters (.inb p) s hidle (.inr hg), fun p v => exec_enters (.outb p v) s hidle (.inr hg),
    fun b e => exec_enters (.wait b e) s hidle (.inr hg), fun a => exec_enters (.read a) s hidle (.inr hg),
    fun a v => exec_enters (.write a v) s hidle (.inr hg)⟩

/-- The issue sees of a state only what the clearing and the latching leave of it, and with that the grants. -/
theorem State.issue_congr (i : Instr) (s s' : State) (h : s'.clearRequest.latch i = s.clearRequest.latch i) :
    s'.issue i = s.issue i := by
  have hsc : s'.gsc = s.gsc := by simpa using congrArg (fun t : State => t.gsc) h
  have hdata : s'.gdata = s.gdata := by simpa using congrArg (fun t : State => t.gdata) h
  have hboth : s'.bothGrants = s.bothGrants := by rw [State.bothGrants, State.bothGrants, hsc, hdata]
  have hport : s'.missingPort = s.missingPort := by rw [State.missingPort, State.missingPort, hsc]
  rw [State.issue, State.issue, hboth, hport, h]

/-- So in IDLE one event of a request is told by what the clearing and the latching leave. -/
theorem exec_idle_congr (i : Instr) (s s' : State) (hidle : s.phase = .idle) (h : s'.clearRequest.latch i = s.clearRequest.latch i) :
    exec i s' = exec i s := by
  have hph : s'.phase = s.phase := by simpa using congrArg (fun t : State => t.phase) h
  rw [exec_idle s i hidle, exec_idle s' i (hph.trans hidle), State.issue_congr i s s' h]

/-- Settles O12: the eleven registers are the ones that the clearing and the latching write. -/
theorem noRegisterLeaksIntoTheNextRequest : Obligations.NoRegisterLeaksIntoTheNextRequest :=
  fun s i _ _ _ _ _ _ _ _ _ _ _ hidle => exec_idle_congr i s _ hidle rfl

/-! ## The byte protocols of READ and WRITE (30_encoding.md R78) -/

/-- A request in flight makes the send step of its phase (42_transactions.md R118). -/
theorem exec_sends (s : State) {i : Instr} {p : PortSel} {v : Byte} {x : WaitPhase} (hi : inFlight s = some i)
    (h : SendsThen i s p v x) : exec i s = .next (sendStep p v x s) := by
  rw [exec_eq_request]
  rcases h with ⟨hph, rfl, rfl, ⟨a, rfl, rfl⟩ | ⟨a, w, rfl, rfl⟩⟩ | ⟨hph, rfl, ⟨rfl, rfl⟩ | ⟨⟨w, rfl⟩, rfl⟩⟩ |
      ⟨hph, rfl, rfl, a, rfl⟩ <;>
    rw [request_inFlight _ _ _ (by rw [hph]; rfl) hi] <;> simp [engineOf, readEngine, writeEngine, hph]

/-- A READ in flight receives its byte in RX_DATA (42_transactions.md R119). -/
theorem exec_receives (s : State) (a : Byte) (hi : inFlight s = some (.read a)) (hph : s.phase = .rxData) :
    exec (.read a) s = .next (receiveStep s) := by
  rw [exec_eq_request, request_inFlight _ _ _ (by rw [hph]; rfl) hi]
  simp [engineOf, readEngine, hph]

/-- The status answer `v` is the one the wait `x` waits for: its flag reads the value expected (42_transactions.md R116). -/
def Ready (c : Config) (x : WaitPhase) (v : Byte) : Prop := ∃ b e, waitTarget c x = some (b, e) ∧ bitMatches v b e = true

/-- A transaction's waits but W_OBF wait for IBF = 0. -/
theorem ready_of_ibf {c : Config} {x : WaitPhase} {v : Byte} (ht : waitTarget c x = some (ibfBit c, false)) (h : ibf c v = false) :
    Ready c x v :=
  ⟨_, _, ht, by simpa [bitMatches, ibf] using h⟩

theorem ready_of_obf {c : Config} {v : Byte} (h : obf c v = true) : Ready c .wObf v :=
  ⟨_, _, rfl, by simpa [bitMatches, obf] using h⟩

/-- The state `t` of a transaction `i`, issued in `s`, whose waits so far all succeeded at once: the Engine is in the phase `ph`, no
wait was passed over, the status answers `rest` are left, and the trace has grown by `events`. -/
structure Underway (s : State) (i : Instr) (ph : Phase) (rest : List Byte) (events : List Event) (t : State) : Prop where
  phase : t.phase = ph
  request : inFlight t = some i
  cfg : t.cfg = s.cfg
  target : ∀ x b e, ph = .wait x → waitTarget s.cfg x = some (b, e) → t.wb = some b ∧ t.we = some e
  res : t.res = none
  err : t.err = none
  ign : t.ign = 0#3
  gsc : t.gsc = true
  gdata : t.gdata = true
  statusIn : t.statusIn = rest
  dataIn : t.dataIn = s.dataIn
  results : t.results = s.results
  hostQueue : t.hostQueue = s.hostQueue
  trace : t.trace = s.trace ++ events

/-- The issue of a transaction that finds both grants enters W1 (30_encoding.md R77). -/
theorem underway_issue {s : State} {i : Instr} (hi : entryPhase i = .wait .w1) (hsc : s.gsc = true) (hdata : s.gdata = true) :
    Underway s i (.wait .w1) s.statusIn [] (s.issue i) := by
  have hop : i.op ≠ .wait := by cases i <;> cases hi <;> simp [Instr.op]
  rw [s.issue_enters i (.inr (by simp [State.bothGrants, hsc, hdata])), hi]
  exact
    { phase := rfl
      request := inFlight_of_registers_kept (inFlight_latch i s.clearRequest) rfl rfl rfl rfl fun h => absurd h hop
      cfg := rfl
      target := by
        rintro x b e ⟨⟩ ht
        exact State.enter_wait_target .w1 b e _ ht
      res := rfl
      err := rfl
      ign := rfl
      gsc := hsc
      gdata := hdata
      statusIn := rfl
      dataIn := rfl
      results := rfl
      hostQueue := rfl
      trace := by simp }

section
variable {s t : State} {i : Instr} {x : WaitPhase} {v : Byte} {rest : List Byte} {events : List Event}

/-- A wait whose first answer is the one it waits for is left by one read of the status register (42_transactions.md R122). -/
theorem Underway.wait_succeeds (ht : Underway s i (.wait x) (v :: rest) events t) (hwf : s.cfg.wf = true)
    (hx : Phase.wait x ∈ phasesOf i) (hv : Ready s.cfg x v) :
    ∃ t', step t = .next t' ∧ t'.st = some v ∧ Underway s i (successPhase x) rest (events ++ [.ioRead .sc v]) t' := by
  obtain ⟨b, e, htarget, hm⟩ := hv
  obtain ⟨hb, he⟩ := ht.target x b e rfl htarget
  have hans : t.answer .sc = v := State.answer_sc_cons t v rest ht.statusIn
  have hstep : step t = .next (t.leaveWait x t.ign) := by
    rw [stepRunsTheRequestInFlight t i (ht.cfg ▸ hwf) (by rw [ht.phase]; rfl) ht.request,
      exec_wait_phase t i x b e ht.phase ht.request hx hb he, t.attempt_success x b e (hans.symm ▸ hm), State.onSuccess_eq x _ rfl]
    rfl
  refine ⟨_, hstep, congrArg some hans, ?_⟩
  exact
    { ht with
      phase := rfl
      target := fun y _ _ hy => by cases x <;> cases hy
      statusIn := congrArg List.tail ht.statusIn
      trace := by simp [State.leaveWait, State.afterRead, ht.trace, hans] }

/-- A send step as the registers it writes, for a wait whose target the table gives (42_transactions.md R116, R118). -/
theorem sendStep_eq {p : PortSel} {y : WaitPhase} {b : BitVec 3} {e : Bool} (h : waitTarget t.cfg y = some (b, e)) :
    sendStep p v y t =
      { t with phase := .wait y, n := 0, wb := some b, we := some e, trace := t.trace ++ [.ioWrite p v] } := by
  simp [sendStep, State.enter, h, State.ioWrite, State.emit]

/-- Every wait but POLL has its target in the table (42_transactions.md R116). -/
theorem waitTarget_of_ne_poll (c : Config) (y : WaitPhase) (h : y ≠ .poll) : ∃ b e, waitTarget c y = some (b, e) := by
  cases y with
  | poll => exact absurd rfl h
  | _ => exact ⟨_, _, rfl⟩

theorem SendsThen.ne_poll {p : PortSel} {y : WaitPhase} (h : SendsThen i t p v y) : y ≠ .poll := by
  rcases h with ⟨_, _, rfl, _⟩ | ⟨_, _, ⟨_, rfl⟩ | ⟨_, rfl⟩⟩ | ⟨_, _, rfl, _⟩ <;> simp

/-- A send step writes its byte and enters the next wait (42_transactions.md R118). -/
theorem Underway.sends {ph : Phase} {p : PortSel} {y : WaitPhase} (ht : Underway s i ph rest events t) (hwf : s.cfg.wf = true)
    (hsend : SendsThen i t p v y) :
    ∃ t', step t = .next t' ∧ Underway s i (.wait y) rest (events ++ [.ioWrite p v]) t' := by
  obtain ⟨_, _, hop⟩ := hsend.next_wait
  have hp : inProgress t.phase = true := by rcases hsend with ⟨h, _⟩ | ⟨h, _⟩ | ⟨h, _⟩ <;> rw [h] <;> rfl
  obtain ⟨b, e, htarget⟩ := waitTarget_of_ne_poll t.cfg y hsend.ne_poll
  refine ⟨{ t with phase := .wait y, n := 0, wb := some b, we := some e, trace := t.trace ++ [.ioWrite p v] }, ?_, ?_⟩
  · rw [stepRunsTheRequestInFlight t i (ht.cfg ▸ hwf) hp ht.request, exec_sends t ht.request hsend, sendStep_eq htarget]
  · exact
      { ht with
        phase := rfl
        request := inFlight_of_registers_kept ht.request rfl rfl rfl rfl fun h => absurd h hop
        target := by
          rintro _ b' e' ⟨⟩ h
          rw [← ht.cfg, htarget] at h
          cases h
          exact ⟨rfl, rfl⟩
        trace := by simp [ht.trace] }

/-- One exchange of a byte protocol: the wait `x` succeeds at once, and the send step after it enters the wait `y`. -/
theorem Underway.exchange {p : PortSel} {b : Byte} {y : WaitPhase} (ht : Underway s i (.wait x) (v :: rest) events t)
    (hwf : s.cfg.wf = true) (hx : Phase.wait x ∈ phasesOf i) (hv : Ready s.cfg x v)
    (hsend : ∀ u : State, u.phase = successPhase x → u.cfg = s.cfg → SendsThen i u p b y) :
    ∃ t', runSteps 2 t = .next t' ∧ Underway s i (.wait y) rest (events ++ [.ioRead .sc v, .ioWrite p b]) t' := by
  obtain ⟨u, hu, _, hun⟩ := ht.wait_succeeds hwf hx hv
  obtain ⟨t', ht', hdone⟩ := hun.sends hwf (hsend u hun.phase hun.cfg)
  refine ⟨t', ?_, by simpa using hdone⟩
  rw [runSteps_succ _ _ _ hu, runSteps_succ _ _ _ ht']
  rfl

end

/-- From IDLE with both grants, the step that issues a transaction from the Host's queue (log 5, 6) enters W1. -/
theorem step_issues_transaction (s : State) (i : Instr) (q : List RequestWord) (hi : entryPhase i = .wait .w1) (hwf : s.cfg.wf = true)
    (hidle : s.phase = .idle) (hsc : s.gsc = true) (hdata : s.gdata = true) (hq : s.hostQueue = encode i :: q) :
    ∃ t, step s = .next t ∧ Underway { s with hostQueue := q } i (.wait .w1) s.statusIn [] t := by
  refine ⟨_, ?_, underway_issue (s := { s with hostQueue := q }) hi hsc hdata⟩
  rw [stepIssuesTheDecodedRequest s _ q i hwf hidle hq (decodeOfEncodeIsSame i)]
  exact exec_idle _ i hidle

/-- Settles O32: the issue, two exchanges, W_OBF and the receive step. -/
theorem readRunsItsByteProtocol : Obligations.ReadRunsItsByteProtocol := by
  intro s a w1 w2 wo d srest drest q hwf hidle hsc hdata hq hstatus hdataIn h1 h2 ho
  obtain ⟨t0, hrun0, hat0⟩ := step_issues_transaction s (.read a) q rfl hwf hidle hsc hdata hq
  rw [hstatus] at hat0
  obtain ⟨t1, hrun1, hat1⟩ := hat0.exchange (p := .sc) (b := s.cfg.cmdRead) (y := .w2) hwf (by simp [phasesOf])
    (ready_of_ibf rfl h1)
    fun u hph hcfg => .inl ⟨hph, rfl, rfl, .inl ⟨a, rfl, by rw [hcfg]⟩⟩
  obtain ⟨t2, hrun2, hat2⟩ := hat1.exchange (p := .data) (b := a) (y := .wObf) hwf (by simp [phasesOf])
    (ready_of_ibf rfl h2)
    fun u hph _ => .inr (.inl ⟨hph, rfl, .inl ⟨rfl, rfl⟩⟩)
  obtain ⟨t3, hrun3, hst, hat3⟩ := hat2.wait_succeeds hwf (by simp [phasesOf]) (ready_of_obf ho)
  have hrun4 : step t3 = .next (receiveStep t3) := by
    rw [stepRunsTheRequestInFlight t3 (.read a) (hat3.cfg ▸ hwf) (by rw [hat3.phase]; rfl) hat3.request,
      exec_receives t3 a hat3.request hat3.phase]
  have hin : t3.dataIn = d :: drest := hat3.dataIn.trans hdataIn
  have hans : t3.answer .data = d := State.answer_data_cons t3 d drest hin
  refine ⟨receiveStep t3, ?_, rfl, congrArg some hans, hat3.err, hat3.ign, hst, hat3.hostQueue, hat3.statusIn, ?_, hat3.gsc, hat3.gdata,
    hat3.results, ?_⟩
  · rw [runSteps_succ 6 _ _ hrun0, runSteps_add 2 4 _ _ hrun1, runSteps_add 2 2 _ _ hrun2, runSteps_succ 1 _ _ hrun3,
      runSteps_succ 0 _ _ hrun4]
    rfl
  · simp [receiveStep, hin]
  · simp [hat3.trace, hans]

/-- Settles O33: the issue, three exchanges, and W4. -/
theorem writeRunsItsByteProtocol : Obligations.WriteRunsItsByteProtocol := by
  intro s a v w1 w2 w3 w4 srest q hwf hidle hsc hdata hq hstatus h1 h2 h3 h4
  obtain ⟨t0, hrun0, hat0⟩ := step_issues_transaction s (.write a v) q rfl hwf hidle hsc hdata hq
  rw [hstatus] at hat0
  obtain ⟨t1, hrun1, hat1⟩ := hat0.exchange (p := .sc) (b := s.cfg.cmdWrite) (y := .w2) hwf (by simp [phasesOf])
    (ready_of_ibf rfl h1)
    fun u hph hcfg => .inl ⟨hph, rfl, rfl, .inr ⟨a, v, rfl, by rw [hcfg]⟩⟩
  obtain ⟨t2, hrun2, hat2⟩ := hat1.exchange (p := .data) (b := a) (y := .w3) hwf (by simp [phasesOf])
    (ready_of_ibf rfl h2)
    fun u hph _ => .inr (.inl ⟨hph, rfl, .inr ⟨⟨v, rfl⟩, rfl⟩⟩)
  obtain ⟨t3, hrun3, hat3⟩ := hat2.exchange (p := .data) (b := v) (y := .w4) hwf (by simp [phasesOf])
    (ready_of_ibf rfl h3)
    fun u hph _ => .inr (.inr ⟨hph, rfl, rfl, a, rfl⟩)
  obtain ⟨t4, hrun4, hst, hat4⟩ := hat3.wait_succeeds hwf (by simp [phasesOf]) (ready_of_ibf rfl h4)
  refine ⟨t4, ?_, hat4.phase, hat4.res, hat4.err, hat4.ign, hst, hat4.hostQueue, hat4.statusIn, hat4.dataIn, hat4.gsc, hat4.gdata,
    hat4.results, by simpa using hat4.trace⟩
  rw [runSteps_succ 7 _ _ hrun0, runSteps_add 2 5 _ _ hrun1, runSteps_add 2 3 _ _ hrun2, runSteps_add 2 1 _ _ hrun3,
    runSteps_succ 0 _ _ hrun4]
  rfl

end Sys2Proof.Machine
end

section
/-! PROOFS of the family 30_encoding.md: the assembler (R80, R81). -/

open Sys2Proof Sys2Proof.Laws Sys2Proof.Machine

namespace Sys2Proof

/-- A statement is ill formed when one of its numbers is out of range (30_encoding.md R80). -/
theorem Statement.wf_eq_false_iff (st : Statement) :
    st.wf = false ↔
      (∃ p v, st = .outb p v ∧ 255 < v) ∨ (∃ b e, st = .wait b e ∧ (7 < b ∨ 1 < e)) ∨ (∃ a, st = .read a ∧ 255 < a) ∨
        (∃ a v, st = .write a v ∧ (255 < a ∨ 255 < v)) := by
  cases st <;> simp [Statement.wf, imp_iff_not_or]

/-- The word of four numbers in range is their sum, digit by digit (30_encoding.md R71). -/
theorem word_ofNat (op f a v : Nat) (hf : f < 16) (ha : a ≤ 255) (hv : v ≤ 255) :
    word (BitVec.ofNat 4 op) (BitVec.ofNat 4 f) (BitVec.ofNat 8 a) (BitVec.ofNat 8 v) =
      BitVec.ofNat 24 (0x100000 * op + 0x10000 * f + 0x100 * a + v) := by
  refine BitVec.eq_of_toNat_eq ?_
  rw [word_toNat]
  simp only [BitVec.toNat_ofNat]
  omega

/-- The `F` of a WAIT is `e * 8 + bit` (30_encoding.md R80). -/
theorem waitBits_ofNat : ∀ b ≤ 7, ∀ e ≤ 1, BitVec.ofBool (e == 1) ++ BitVec.ofNat 3 b = BitVec.ofNat 4 (e * 8 + b) := by
  decide

end Sys2Proof

namespace Sys2Proof.Machine

theorem assemble_of_wf (c : Config) (st : Statement) (h : st.wf = true) : assemble c st = some (encode (statementInstr c st)) :=
  if_pos h

theorem assemble_eq_none_iff (c : Config) (st : Statement) : assemble c st = none ↔ st.wf = false := by
  simp [assemble]

/-- Settles O57: the words by `word_ofNat`, their decoding by O1, the refusals by `Statement.wf`. -/
theorem assemblerAcceptsExactlyTheRanges : Obligations.AssemblerAcceptsExactlyTheRanges := by
  intro c
  refine ⟨⟨rfl, rfl, rfl, rfl⟩, fun v hv => ?_, fun b e hb he => ?_, fun a ha => ?_, fun a v ha hv => ?_, fun st => ⟨fun h => ?_, ?_⟩⟩
  · have hwf : ∀ p, (Statement.outb p v).wf = true := by simp [Statement.wf, hv]
    rw [assemble_of_wf c _ (hwf .sc), assemble_of_wf c _ (hwf .data)]
    exact ⟨congrArg some (word_ofNat 3 0 0 v (by decide) (by decide) hv),
      congrArg some (word_ofNat 3 1 0 v (by decide) (by decide) hv)⟩
  · rw [assemble_of_wf c _ (by simp [Statement.wf, hb, he]), statementInstr, encode, waitBits_ofNat b hb e he]
    exact congrArg some (word_ofNat 4 (e * 8 + b) 0 0 (by omega) (by decide) (by decide))
  · rw [assemble_of_wf c _ (by simp [Statement.wf, ha])]
    exact congrArg some (word_ofNat 8 0 a 0 (by decide) ha (by decide))
  · rw [assemble_of_wf c _ (by simp [Statement.wf, ha, hv])]
    exact congrArg some (word_ofNat 9 0 a v (by decide) ha hv)
  · exact ⟨_, assemble_of_wf c st h, decodeOfEncodeIsSame _⟩
  · exact (assemble_eq_none_iff c st).trans (Statement.wf_eq_false_iff st)

/-- Settles O58: the WAIT is in range in a well-formed table, and then both are one request. -/
theorem pseudoWaitsAreWaits : Obligations.PseudoWaitsAreWaits := by
  refine ⟨fun c hwf => ?_, fun c hibf hobf => ?_⟩
  · have hd : c.distinct = true := (Bool.and_eq_true_iff.1 hwf).1
    obtain ⟨_, _, hibf, hobf, _⟩ := c.distinct_iff.1 hd
    rw [assemble_of_wf c (.wait c.ibfBit 0) (by simp [Statement.wf, hibf]),
      assemble_of_wf c (.wait c.obfBit 1) (by simp [Statement.wf, hobf])]
    exact ⟨rfl, rfl⟩
  · rw [assemble_of_wf c .waitIbfClear rfl, assemble_of_wf c .waitObfSet rfl,
      statementInstr, statementInstr, ibfBit, obfBit, hibf, hobf]
    exact ⟨rfl, rfl⟩

end Sys2Proof.Machine
end

section
/-! PROOFS of the family 40_port_access.md: ACQUIRE, INB and OUTB (R90, R93 to R95), the grants that a port access needs (R91), and
the end of a CLI run at its first failure (R92). -/

open Sys2Proof Sys2Proof.Machine

namespace Sys2Proof.Machine

/-! ## No port event without both grants (40_port_access.md R91) -/

/-- The authority's answer to an `Acquire` is no port event. -/
theorem acquireStep_portEvents (p : PortSel) (s : State) : portEvents (acquireStep p s).trace = portEvents s.trace := by
  rw [acquireStep_trace, portEvents, portEvents, List.countP_append]
  cases s.holds p <;> simp [isPortEvent]

/-- The only move in ACQ is the step of ACQUIRE. -/
theorem EngineMove.acquires_of_acq {i : Instr} {s t : State} (h : EngineMove i s t) (hacq : s.phase = .acq) :
    ∃ p, t = acquireStep p s := by
  cases h with
  | acquires p _ _ => exact ⟨p, rfl⟩
  | reads p _ hph => cases hacq.symm.trans hph
  | writes p v _ hph => cases hacq.symm.trans hph
  | polls x b e hph _ _ _ => cases hacq.symm.trans hph
  | sends p v x hsend =>
    have hnext := (SendsThen.next_wait hsend).1
    rw [hacq] at hnext
    cases hnext
  | receives _ _ hph => cases hacq.symm.trans hph

/-- A step makes a port event only in a phase in flight other than ACQ. -/
theorem StepMove.portEvents_cases {s t : State} (h : StepMove s t) :
    portEvents t.trace = portEvents s.trace ∨ inProgress s.phase = true ∧ s.phase ≠ .acq := by
  cases h with
  | waits _ _ => exact .inl rfl
  | issues w rest i _ _ _ => exact .inl (by simp)
  | refuses w rest why _ _ _ => exact .inl (by simp)
  | collectsDone _ => exact .inl (by simp)
  | collectsFailed _ => exact .inl (by simp)
  | engine i t hp _ hm =>
    by_cases hacq : s.phase = .acq
    · obtain ⟨p, rfl⟩ := hm.acquires_of_acq hacq
      exact .inl (acquireStep_portEvents p s)
    · exact .inr ⟨hp, hacq⟩

theorem State.bothGrants_iff (s : State) : s.bothGrants = true ↔ s.gsc = true ∧ s.gdata = true := by
  simp [State.bothGrants]

/-- Settles O47: a phase that makes a port event is one in which the invariant says that both grants are held. -/
theorem noPortEventWithoutBothGrants : Obligations.NoPortEventWithoutBothGrants := by
  intro s t hs h hne
  obtain ⟨_, hmove⟩ := step_next s t h
  obtain ⟨hp, hacq⟩ := hmove.portEvents_cases.resolve_left hne
  exact s.bothGrants_iff.1 (hs.granted hp hacq)

/-! ## The CLI Host after a failure (40_port_access.md R92) -/

theorem runEnded_iff (s : State) : runEnded s = true ↔ s.phase = .idle ∧ s.hostQueue = [] := by
  simp [runEnded]

/-- A CLI run is at its end once the Host has collected a FAILED result: its queue is emptied (log 6). -/
theorem runEnded_collected_cli (s : State) (h : s.hostKind = .cli) : runEnded (s.collected .failed) = true :=
  (runEnded_iff _).2 ⟨rfl, by simp [h, queueAfter]⟩

/-- A run at its end stays where it is (log 7). -/
theorem step_runEnded (s : State) (hwf : s.cfg.wf = true) (h : runEnded s = true) : step s = .next s := by
  obtain ⟨hidle, hq⟩ := (runEnded_iff s).1 h
  simp [step, hwf, move, hidle, hostTurn, hq]

/-- A state that its step leaves as it is stays so in every run. -/
theorem runSteps_of_step_self {s : State} (h : step s = .next s) (k : Nat) : runSteps k s = .next s := by
  induction k with
  | zero => rfl
  | succ k ih => rw [runSteps_succ k s s h, ih]

/-- In FAILED the step is the Host's `collect` (10_state.md R27). -/
theorem step_failed (s : State) (hwf : s.cfg.wf = true) (hf : s.phase = .failed) : step s = .next (s.collected .failed) := by
  simp [step, hwf, move, hf, collect_failed]

/-- Settles O50: the state collected is at the run's end, where each step waits. -/
theorem cliStopsAfterAFailure : Obligations.CliStopsAfterAFailure := by
  intro s hwf hf hk
  have hend := runEnded_collected_cli s hk
  have hself := step_runEnded (s.collected .failed) hwf hend
  exact ⟨_, step_failed s hwf hf, hend, rfl, runSteps_of_step_self hself⟩

/-! ## The issue without both grants (40_port_access.md R91) -/

/-- The port that a PERMISSION failure at issue names: SC first. -/
theorem State.missingPort_eq (s : State) : s.missingPort = if s.gsc = false then .sc else .data := by
  unfold State.missingPort
  cases s.gsc <;> rfl

theorem State.bothGrants_eq_false (s : State) (h : s.gsc = false ∨ s.gdata = false) : s.bothGrants = false := by
  rcases h with h | h <;> simp [State.bothGrants, h]

/-- A request that finds a grant missing is latched over cleared registers and fails. -/
theorem exec_denied (i : Instr) (s : State) (hidle : s.phase = .idle) (hi : needsGrants i = true)
    (hg : s.gsc = false ∨ s.gdata = false) :
    exec i s = .next
      ((s.clearRequest.latch i).raise { code := .permission, port := some (if s.gsc = false then .sc else .data) }) := by
  rw [exec_idle s i hidle, s.issue_denied i hi (s.bothGrants_eq_false hg), s.missingPort_eq, permissionRecord]

/-- Settles O11: the fields of `exec_denied`, request by request. -/
theorem issueWithoutBothGrantsIsDenied : Obligations.IssueWithoutBothGrantsIsDenied := by
  intro s hidle hg
  exact ⟨fun p => exec_denied (.inb p) s hidle rfl hg, fun p v => exec_denied (.outb p v) s hidle rfl hg,
    fun b e => exec_denied (.wait b e) s hidle rfl hg, fun a => exec_denied (.read a) s hidle rfl hg,
    fun a v => exec_denied (.write a v) s hidle rfl hg⟩

/-! ## The step in ACQ (40_port_access.md R90) -/

/-- A request in flight in one of its phases takes its engine's step. -/
theorem exec_inFlight (i : Instr) (s : State) (hi : inFlight s = some i) (hph : s.phase ∈ phasesOf i) : exec i s = engineOf i s := by
  rw [exec_eq_request, request_inFlight i _ s (inProgress_of_mem_phasesOf i _ hph) hi]

theorem exec_acq (s : State) (p : PortSel) (hph : s.phase = .acq) (hi : inFlight s = some (.acquire p)) :
    exec (.acquire p) s = .next (acquireStep p s) := by
  rw [exec_inFlight _ s hi (by simp [hph, phasesOf]), engineOf, acquireEngine, hph]

theorem acquireStep_held (p : PortSel) (s : State) (h : s.holds p = true) : acquireStep p s = s.finish := by
  simp [acquireStep, h]

theorem acquireStep_granted (p : PortSel) (s : State) (h : s.holds p = false) (hd : s.grantDraw = .granted) :
    acquireStep p s = ((s.acquireDraw p).grant p).finish := by
  simp [acquireStep, h, hd]

theorem acquireStep_denied (p : PortSel) (s : State) (h : s.holds p = false) (hd : s.grantDraw = .denied) :
    acquireStep p s = (s.acquireDraw p).raise (permissionRecord p) := by
  simp [acquireStep, h, hd]

/-- The draw of an `Acquire` as the fields it writes. -/
theorem State.acquireDraw_eq (p : PortSel) (s : State) {d : GrantDraw} (hd : s.grantDraw = d) :
    s.acquireDraw p = { s with grantIn := s.grantIn.tail, draws := s.draws + 1, trace := s.trace ++ [.acquire p d] } := by
  rw [State.acquireDraw, hd]

theorem State.holds_iff (p : PortSel) (s : State) :
    s.holds p = true ↔ (p = .sc → s.gsc = true) ∧ (p = .data → s.gdata = true) := by
  cases p <;> simp [State.holds]

theorem State.holds_eq_false_iff (p : PortSel) (s : State) :
    s.holds p = false ↔ p = .sc ∧ s.gsc = false ∨ p = .data ∧ s.gdata = false := by
  cases p <;> simp [State.holds]

/-- Settles O15: `acquireStep` by its three outcomes, the GRANTED one port by port. -/
theorem acquireStepByHeldGrantedDenied : Obligations.AcquireStepByHeldGrantedDenied := by
  intro s p hph hi
  rw [exec_acq s p hph hi]
  refine ⟨fun hsc hdata => ?_, ?_, ?_, fun hmissing hd => ?_⟩
  · rw [acquireStep_held p s ((s.holds_iff p).2 ⟨hsc, hdata⟩), State.finish]
  · rintro rfl hsc hd
    rw [acquireStep_granted .sc s hsc hd, s.acquireDraw_eq .sc hd]
    rfl
  · rintro rfl hdata hd
    rw [acquireStep_granted .data s hdata hd, s.acquireDraw_eq .data hd]
    rfl
  · rw [acquireStep_denied p s ((s.holds_eq_false_iff p).2 hmissing) hd, s.acquireDraw_eq p hd]
    rfl

/-! ## INB and OUTB (40_port_access.md R93 to R95) -/

theorem exec_ior (s : State) (p : PortSel) (hph : s.phase = .ior) (hi : inFlight s = some (.inb p)) :
    exec (.inb p) s = .next (inbStep p s) := by
  rw [exec_inFlight _ s hi (by simp [hph, phasesOf]), engineOf, inbEngine, hph]

theorem exec_iow (s : State) (p : PortSel) (v : Byte) (hph : s.phase = .iow) (hi : inFlight s = some (.outb p v)) :
    exec (.outb p v) s = .next (outbStep p v s) := by
  rw [exec_inFlight _ s hi (by simp [hph, phasesOf]), engineOf, outbEngine, hph]

/-- Settles O16: `inbStep` as the fields it writes, port by port. -/
theorem inbReturnsThePortByte : Obligations.InbReturnsThePortByte :=
  fun s hph => ⟨exec_ior s .sc hph, exec_ior s .data hph⟩

/-- Settles O17: `outbStep` as the fields it writes. -/
theorem outbWritesThePortByte : Obligations.OutbWritesThePortByte :=
  exec_iow

/-- Settles O18: the one step of each is `inbStep` or `outbStep`, whose traces are known. -/
theorem inbAndOutbTakeOneStepAndOneEvent : Obligations.InbAndOutbTakeOneStepAndOneEvent := by
  rintro s i (⟨p, rfl⟩ | ⟨p, v, rfl⟩) hph hi
  · exact ⟨_, _, exec_ior s p hph hi, rfl, inbStep_trace p s, rfl⟩
  · exact ⟨_, _, exec_iow s p v hph hi, rfl, outbStep_trace p v s, rfl⟩

end Sys2Proof.Machine
end

section
/-! PROOFS of the family 41_polling.md: one attempt of a wait (R100 to R102, R104 to R106, R109) and the count of a whole wait's reads and
sleeps (R103). -/

open Sys2Proof Sys2Proof.Machine

namespace Sys2Proof.Machine

/-! ## One attempt of a wait (41_polling.md R100, R102) -/

theorem bitMatches_iff (v : Byte) (b : BitVec 3) (e : Bool) : bitMatches v b e = true ↔ v.getLsbD b.toNat = e := by
  simp [bitMatches, statusBit]

theorem bitMatches_eq_false_iff (v : Byte) (b : BitVec 3) (e : Bool) : bitMatches v b e = false ↔ v.getLsbD b.toNat ≠ e := by
  rw [Ne, ← bitMatches_iff, Bool.not_eq_true]

/-- The timeout of an intermediate wait under COMPAT is recorded and passed over (42_transactions.md R126). -/
theorem State.onTimeout_recorded {x : WaitPhase} {k : Nat} (s : State) (hk : ignIndex x = some k) (hpol : s.cfg.policy = .compat) :
    s.onTimeout x = { s with ign := setIgn s.ign k }.onSuccess x := by
  simp [State.onTimeout, hk, hpol]

/-- Every other timeout is surfaced (41_polling.md R104; 42_transactions.md R125, R127). -/
theorem State.onTimeout_surfaced {x : WaitPhase} (s : State) (h : ignIndex x = none ∨ s.cfg.policy = .strict) :
    s.onTimeout x = s.raise (timeoutRecord x s) := by
  rcases State.onTimeout_cases x s with ⟨k, hk, hpol, _⟩ | ⟨_, hraise⟩
  · simp [hk, hpol] at h
  · exact hraise

/-- Each case of `AttemptMove` determines the attempt: what it says is what the attempt answers. -/
theorem AttemptMove.eq_attempt {x : WaitPhase} {b : BitVec 3} {e : Bool} {s t : State} (h : AttemptMove x b e s t) :
    s.attempt x b e = t := by
  cases h with
  | matched hm =>
    rw [s.attempt_success x b e hm, State.onSuccess_eq x _ rfl]
    rfl
  | recorded k hm hn hk hpol =>
    rw [s.attempt_timeout x b e hm hn, State.onTimeout_recorded { s.afterRead with n := 0 } hk hpol, State.onSuccess_eq x _ rfl]
    rfl
  | surfaced hm hn hsurf => rw [s.attempt_timeout x b e hm hn, State.onTimeout_surfaced { s.afterRead with n := 0 } hsurf]
  | retried hm hn => exact s.attempt_retry x b e hm hn

/-- The request `i` is in flight in its wait phase `x`, where bit `b` is awaited to read `e`. -/
structure Awaiting (i : Instr) (x : WaitPhase) (b : BitVec 3) (e : Bool) (s : State) : Prop where
  phase : s.phase = .wait x
  request : inFlight s = some i
  own : Phase.wait x ∈ phasesOf i
  bit : s.wb = some b
  expected : s.we = some e

/-- A WAIT in POLL awaits the bit and the value of its operands (41_polling.md R101). -/
theorem awaiting_poll {s : State} {b : BitVec 3} {e : Bool} (hph : s.phase = .wait .poll) (hi : inFlight s = some (.wait b e)) :
    Awaiting (.wait b e) .poll b e s := by
  obtain ⟨_, hb, he⟩ := inFlight_registers s _ hi
  exact ⟨hph, hi, by simp [phasesOf], hb, he⟩

section
variable {i : Instr} {x : WaitPhase} {b : BitVec 3} {e : Bool} {s t : State}

theorem Awaiting.exec_eq (h : Awaiting i x b e s) : exec i s = .next (s.attempt x b e) :=
  exec_wait_phase s i x b e h.phase h.request h.own h.bit h.expected

/-- While a wait is in progress, one event of the request is one of the four moves of an attempt. -/
theorem Awaiting.exec_of_move (h : Awaiting i x b e s) (hm : AttemptMove x b e s t) : exec i s = .next t := by
  rw [h.exec_eq, hm.eq_attempt]

/-- In a wait phase only a wait in progress answers a next state, and by a move of its attempt. -/
theorem awaiting_of_exec (hph : s.phase = .wait x) (h : exec i s = .next t) :
    ∃ b e, Awaiting i x b e s ∧ AttemptMove x b e s t := by
  rcases exec_next i s t h with ⟨hidle, _⟩ | ⟨_, hi, hm⟩
  · cases hph.symm.trans hidle
  · cases hm with
    | polls y b e hy hown hb he =>
      obtain rfl : y = x := Phase.wait.inj (hy.symm.trans hph)
      exact ⟨b, e, ⟨hph, hi, hown, hb, he⟩, s.attempt_move y b e⟩
    | acquires _ _ hacq => cases hph.symm.trans hacq
    | reads _ _ hior => cases hph.symm.trans hior
    | writes _ _ _ hiow => cases hph.symm.trans hiow
    | receives _ _ hrx => cases hph.symm.trans hrx
    | sends p v y hsend => rcases hsend with ⟨hsend, _⟩ | ⟨hsend, _⟩ | ⟨hsend, _⟩ <;> cases hph.symm.trans hsend

/-- The step of the machine while a wait is in progress (10_state.md R27). -/
theorem Awaiting.step_eq (h : Awaiting i x b e s) (hwf : s.cfg.wf = true) : step s = .next (s.attempt x b e) := by
  rw [stepRunsTheRequestInFlight s i hwf (by rw [h.phase]; rfl) h.request, h.exec_eq]

end

/-- Settles O19: the `matched` move in POLL. -/
theorem waitEndsDoneWhenTheBitMatches : Obligations.WaitEndsDoneWhenTheBitMatches :=
  fun _ b e hph hi hv => (awaiting_poll hph hi).exec_of_move (.matched ((bitMatches_iff _ b e).2 hv))

/-- Settles O20: the `retried` move. -/
theorem failedAttemptCountsAndSleeps : Obligations.FailedAttemptCountsAndSleeps := by
  intro s i x b e hph hi hown hb he hv hn
  have hs : Awaiting i x b e s := ⟨hph, hi, hph ▸ hown, hb, he⟩
  rw [hs.exec_of_move (.retried ((bitMatches_eq_false_iff _ b e).2 hv) hn)]
  simp [State.sleep, State.emit, State.afterRead, State.ioRead]

/-- Settles O21: the `surfaced` move in POLL, which has no bit of `IGN`. -/
theorem pollTimeoutIsSurfaced : Obligations.PollTimeoutIsSurfaced := by
  intro s b e hph hi hv hn
  have hs := awaiting_poll hph hi
  rw [hs.exec_of_move (.surfaced ((bitMatches_eq_false_iff _ b e).2 hv) hn (.inl rfl))]
  simp [State.raise, timeoutRecord, hs.bit, hs.expected, State.afterRead, State.ioRead, Config.pollLimit]

/-! ## What an attempt does not depend on (41_polling.md R105, R106) -/

/-- Settles O24: in POLL no timeout is passed over, so no move of the attempt looks at the policy; none looks at the grants. -/
theorem waitIgnoresPolicyAndGrants : Obligations.WaitIgnoresPolicyAndGrants := by
  intro s t b e policy gsc gdata hph h
  obtain ⟨b', e', hs, hm⟩ := awaiting_of_exec hph h
  have hs' : Awaiting (.wait b e) .poll b' e' { s with gsc := gsc, gdata := gdata, cfg := { s.cfg with policy := policy } } :=
    ⟨hs.phase, hs.request, hs.own, hs.bit, hs.expected⟩
  refine hs'.exec_of_move ?_
  cases hm with
  | matched hv => exact .matched hv
  | recorded k _ _ hk _ => cases hk
  | surfaced hv hn _ => exact .surfaced hv hn (.inl rfl)
  | retried hv hn => exact .retried hv hn

/-- The states `t` and `t'` of two attempts differ at most in `ST`, the trace, and the record's copy of `ST` (41_polling.md R109). -/
def SameButStatus (t t' : State) : Prop :=
  ({ t' with st := t.st, trace := t.trace, err := t'.err.map fun r => { r with status := t.st } } : State)
    = { t with err := t.err.map fun r => { r with status := t.st } }

/-- Two status bytes that agree on the tested bit take an attempt through the same move. -/
theorem AttemptMove.of_same_bit {x : WaitPhase} {b : BitVec 3} {e : Bool} {s t : State} {v v' : Byte} {rest : List Byte}
    (hbit : v.getLsbD b.toNat = v'.getLsbD b.toNat) (h : AttemptMove x b e { s with statusIn := v :: rest } t) :
    ∃ t', AttemptMove x b e { s with statusIn := v' :: rest } t' ∧ SameButStatus t t' := by
  have hsame : bitMatches v' b e = bitMatches v b e := by rw [bitMatches, bitMatches, statusBit, statusBit, hbit]
  cases h with
  | matched hv => exact ⟨_, .matched (hsame.trans hv), rfl⟩
  | recorded k hv hn hk hpol => exact ⟨_, .recorded k (hsame.trans hv) hn hk hpol, rfl⟩
  | surfaced hv hn hpol => exact ⟨_, .surfaced (hsame.trans hv) hn hpol, rfl⟩
  | retried hv hn => exact ⟨_, .retried (hsame.trans hv) hn, rfl⟩

/-- Settles O23. -/
theorem onlyTheTestedBitDecides : Obligations.OnlyTheTestedBitDecides := by
  intro s t i x b v v' rest hph hb hbit h
  obtain ⟨b', e, hs, hm⟩ := awaiting_of_exec (s := { s with statusIn := v :: rest }) hph h
  obtain rfl : b' = b := Option.some.inj (hs.bit.symm.trans hb)
  obtain ⟨t', hm', hsame⟩ := hm.of_same_bit hbit
  have hs' : Awaiting i x b' e { s with statusIn := v' :: rest } := ⟨hs.phase, hs.request, hs.own, hs.bit, hs.expected⟩
  exact ⟨t', hs'.exec_of_move hm', hsame⟩

/-! ## The counting law (41_polling.md R103) -/

@[simp] theorem waitTrace_nil (last : Byte) : waitTrace [] last = [.ioRead .sc last] := rfl

@[simp] theorem waitTrace_cons (v : Byte) (fails : List Byte) (last : Byte) :
    waitTrace (v :: fails) last = .ioRead .sc v :: .sleep :: waitTrace fails last := rfl

theorem portEvents_waitTrace (fails : List Byte) (last : Byte) : portEvents (waitTrace fails last) = fails.length + 1 := by
  induction fails with
  | nil => rfl
  | cons v fails ih =>
    rw [waitTrace_cons, portEvents, List.countP_cons, List.countP_cons, ← portEvents, ih]
    rfl

theorem sleeps_waitTrace (fails : List Byte) (last : Byte) : sleeps (waitTrace fails last) = fails.length := by
  induction fails with
  | nil => rfl
  | cons v fails ih =>
    rw [waitTrace_cons, sleeps, List.countP_cons, List.countP_cons, ← sleeps, ih]
    rfl

/-- The state of a wait after the failing answers `fails`, with the answers `rest` still to come; `ST` is left as it was, because the
next attempt writes it before anything reads it (`State.attempt_setSt`). -/
def State.afterFails (fails rest : List Byte) (s : State) : State :=
  { s with
    n := s.n + fails.length
    statusIn := rest
    draws := s.draws + fails.length
    trace := s.trace ++ fails.flatMap fun v => [.ioRead .sc v, .sleep] }

/-- The state after a failing attempt with attempts left: the move `AttemptMove.retried`. -/
def State.afterRetry (s : State) : State := { s.afterRead with n := s.n + 1 }.sleep

/-- An attempt does not read the `ST` that the one before it left. -/
theorem State.attempt_setSt (x : WaitPhase) (b : BitVec 3) (e : Bool) (s : State) (st : Option Byte) :
    { s with st := st }.attempt x b e = s.attempt x b e := rfl

theorem State.afterFails_nil {s : State} {rest : List Byte} (h : s.statusIn = rest) : s.afterFails [] rest = s := by
  simp [State.afterFails, ← h]

/-- One failing answer more at the front is one attempt that goes on waiting, `ST` apart. -/
theorem State.afterFails_cons {s : State} {v : Byte} {fails rest : List Byte} (h : s.answer .sc = v) :
    { s.afterRetry.afterFails fails rest with st := s.st } = s.afterFails (v :: fails) rest := by
  simp [State.afterFails, State.afterRetry, State.sleep, State.emit, State.afterRead, State.ioRead, h, Nat.add_assoc, Nat.add_comm 1]

/-- A wait that reads failing answers below the limit comes to its next attempt, one step for each. -/
theorem Awaiting.run {i : Instr} {x : WaitPhase} {b : BitVec 3} {e : Bool} {last : Byte} {rest : List Byte} (fails : List Byte)
    (hfails : ∀ v ∈ fails, bitMatches v b e = false) {s : State} (h : Awaiting i x b e s) (hwf : s.cfg.wf = true)
    (hin : s.statusIn = fails ++ last :: rest) (hn : s.n + fails.length < Config.pollLimit) :
    runSteps (fails.length + 1) s = .next ((s.afterFails fails (last :: rest)).attempt x b e) := by
  induction fails generalizing s with
  | nil =>
    rw [State.afterFails_nil (rest := last :: rest) hin, List.length_nil, runSteps_succ 0 _ _ (h.step_eq hwf)]
    rfl
  | cons v fails ih =>
    have hans : s.answer .sc = v := State.answer_sc_cons s v _ hin
    rw [List.length_cons] at hn ⊢
    have hstep : step s = .next s.afterRetry := by
      rw [h.step_eq hwf, s.attempt_retry x b e (hans ▸ hfails v (by simp)) (by omega)]
      rfl
    have hnext : Awaiting i x b e s.afterRetry := ⟨h.phase, h.request, h.own, h.bit, h.expected⟩
    have hlater : ∀ w ∈ fails, bitMatches w b e = false := fun w hw => hfails w (List.mem_cons_of_mem v hw)
    have hin' : s.afterRetry.statusIn = fails ++ last :: rest := congrArg List.tail hin
    have hn' : s.afterRetry.n + fails.length < Config.pollLimit := by
      simp only [State.afterRetry, State.sleep_n]
      omega
    calc runSteps (fails.length + 1 + 1) s
      _ = runSteps (fails.length + 1) s.afterRetry := runSteps_succ _ s s.afterRetry hstep
      _ = .next ((s.afterRetry.afterFails fails (last :: rest)).attempt x b e) := ih hlater hnext hwf hin' hn'
      _ = .next ((s.afterFails (v :: fails) (last :: rest)).attempt x b e) := by
        rw [← State.afterFails_cons hans]
        exact congrArg Host.Outcome.next (State.attempt_setSt x b e _ s.st).symm

/-- The read of the last attempt of a wait entered with `N` = 0. -/
theorem State.afterRead_afterFails {s : State} (fails : List Byte) (last : Byte) (rest : List Byte) (hn : s.n = 0) :
    { (s.afterFails fails (last :: rest)).afterRead with n := 0 } =
      { s with
        st := some last, statusIn := rest, draws := s.draws + (fails.length + 1)
        trace := s.trace ++ waitTrace fails last } := by
  simp [State.afterFails, State.afterRead, State.ioRead, State.answer, waitTrace, hn, Nat.add_assoc]

/-- Settles O22: the run up to the last attempt, and that attempt's success or timeout. -/
theorem waitCountingLaw : Obligations.WaitCountingLaw := by
  intro s i x b e fails last rest hwf hph hi hown hb he hn hin hfails
  have hs : Awaiting i x b e s := ⟨hph, hi, hph ▸ hown, hb, he⟩
  have hrun := fun hlt : fails.length < 100 => hs.run fails (fun v hv => (bitMatches_eq_false_iff v b e).2 (hfails v hv)) hwf hin
    (show s.n + fails.length < 100 by omega)
  refine ⟨portEvents_waitTrace fails last, sleeps_waitTrace fails last, fun hlt hlast => ?_, fun hlen hlast => ?_⟩
  · have hread : bitMatches ((s.afterFails fails (last :: rest)).answer .sc) b e = true := (bitMatches_iff last b e).2 hlast
    rw [hrun hlt, State.attempt_success x b e _ hread, State.afterRead_afterFails fails last rest hn]
  · have hread : bitMatches ((s.afterFails fails (last :: rest)).answer .sc) b e = false :=
      (bitMatches_eq_false_iff last b e).2 hlast
    have hcount : fails.length + 1 = 100 := congrArg (· + 1) hlen
    have hlimit : (s.afterFails fails (last :: rest)).n + 1 = Config.pollLimit := by
      rw [State.afterFails, hn, Nat.zero_add, hcount, Config.pollLimit]
    rw [← hcount, hrun (by omega), State.attempt_timeout x b e _ hread hlimit, State.afterRead_afterFails fails last rest hn]

end Sys2Proof.Machine
end

section
/-! PROOFS of the family 42_transactions.md: the steps of a READ or a WRITE by phase (R118 to R122), its timeouts (R123 to R127), and
what the invariant says of its end. -/

open Sys2Proof Sys2Proof.Machine

namespace Sys2Proof.Machine

/-! ## The send and receive steps (42_transactions.md R118, R119) -/

/-- A send step of the request in flight, as the registers it writes. -/
theorem exec_sends_eq {s : State} {i : Instr} {p : PortSel} {v : Byte} {y : WaitPhase} {b : BitVec 3} {e : Bool}
    (hi : inFlight s = some i) (hsend : SendsThen i s p v y) (ht : waitTarget s.cfg y = some (b, e)) :
    exec i s = .next
      { s with phase := .wait y, n := 0, wb := some b, we := some e, trace := s.trace ++ [.ioWrite p v] } := by
  rw [exec_sends s hi hsend, sendStep_eq ht]

/-- Settles O25: the five send steps that `SendsThen` lists. -/
theorem sendStepsWriteOneByte : Obligations.SendStepsWriteOneByte := by
  intro s a v
  refine ⟨fun hph hi => ?_, fun hph hi => ?_, fun hph hi => ?_, fun hph hi => ?_, fun hph hi => ?_⟩
  · exact exec_sends_eq (y := .w2) hi (.inl ⟨hph, rfl, rfl, .inl ⟨a, rfl, rfl⟩⟩) rfl
  · exact exec_sends_eq (y := .w2) hi (.inl ⟨hph, rfl, rfl, .inr ⟨a, v, rfl, rfl⟩⟩) rfl
  · exact exec_sends_eq (y := .wObf) hi (.inr (.inl ⟨hph, rfl, .inl ⟨rfl, rfl⟩⟩)) rfl
  · exact exec_sends_eq (y := .w3) hi (.inr (.inl ⟨hph, rfl, .inr ⟨⟨v, rfl⟩, rfl⟩⟩)) rfl
  · exact exec_sends_eq (y := .w4) hi (.inr (.inr ⟨hph, rfl, rfl, a, rfl⟩)) rfl

/-- Settles O26: `receiveStep` as the fields it writes. -/
theorem readEndsDoneWithTheDataByte : Obligations.ReadEndsDoneWithTheDataByte :=
  fun s a hph hi => exec_receives s a hi hph

/-! ## A wait that is left for the phase after it (42_transactions.md R122, R126) -/

/-- `leaveWait` as the fields it writes. -/
theorem State.leaveWait_eq (x : WaitPhase) (m : BitVec 3) (s : State) :
    s.leaveWait x m =
      { s with
        phase := successPhase x, n := 0, ign := m, st := some (s.answer .sc), statusIn := s.statusIn.tail, draws := s.draws + 1
        trace := s.trace ++ [.ioRead .sc (s.answer .sc)] } := rfl

/-- Settles O28: the `matched` move, whose phase is `successPhase x`. -/
theorem transactionWaitSuccessTable : Obligations.TransactionWaitSuccessTable := by
  intro s i x b e hph _ hi hown hb he hv
  have hs : Awaiting i x b e s := ⟨hph, hi, hph ▸ hown, hb, he⟩
  rw [hs.exec_of_move (.matched ((bitMatches_iff _ b e).2 hv)), State.leaveWait_eq]
  cases x <;> rfl

/-- Settles O27: the W4 row of the table of O28. -/
theorem writeEndsDoneWhenConfirmed : Obligations.WriteEndsDoneWhenConfirmed := by
  intro s a v hph hi hb he hibf
  exact transactionWaitSuccessTable s (.write a v) .w4 _ _ hph (by simp) hi (by simp [hph, phasesOf]) hb he hibf

/-- Settles O29: the `recorded` move of each intermediate wait. -/
theorem compatRecordsTheTimeoutAndGoesOn : Obligations.CompatRecordsTheTimeoutAndGoesOn := by
  intro s i x b e hpol hph hi hown hb he hv hn
  have hs : Awaiting i x b e s := ⟨hph, hi, hph ▸ hown, hb, he⟩
  have hrec : ∀ k, ignIndex x = some k → exec i s = .next (s.leaveWait x (setIgn s.ign k)) := fun k hk =>
    hs.exec_of_move (.recorded k ((bitMatches_eq_false_iff _ b e).2 hv) hn hk hpol)
  refine ⟨?_, ?_, ?_⟩
  · rintro rfl
    exact hrec 0 rfl
  · rintro rfl
    exact hrec 1 rfl
  · rintro rfl
    exact hrec 2 rfl

/-! ## A timeout that is surfaced (42_transactions.md R123, R125, R127) -/

/-- The phase of the request in flight is one of its own. -/
theorem Consistent.phase_mem {s : State} (hs : Consistent s) {i : Instr} (hp : inProgress s.phase = true)
    (hi : inFlight s = some i) : s.phase ∈ phasesOf i := by
  obtain ⟨j, hj, hmem⟩ := hs.latched hp
  obtain rfl : i = j := Option.some.inj (hi.symm.trans hj)
  exact hmem

/-- The state after a surfaced timeout of the wait `x` for bit `b` to read `e`, as the fields it writes. -/
def State.timedOut (x : WaitPhase) (b : BitVec 3) (e : Bool) (s : State) : State :=
  { s with
    phase := .failed, n := 0, st := some (s.answer .sc), statusIn := s.statusIn.tail, draws := s.draws + 1
    trace := s.trace ++ [.ioRead .sc (s.answer .sc)]
    err := some
      { code := .timeout, wait := some x, bit := some b, expected := some e, status := some (s.answer .sc), attempts := some 100 } }

/-- Attempt 100 that does not see the bit, in a wait that nothing passes over, fails the request. -/
theorem Awaiting.exec_timedOut {i : Instr} {x : WaitPhase} {b : BitVec 3} {e : Bool} {s : State} (h : Awaiting i x b e s)
    (hv : (s.answer .sc).getLsbD b.toNat ≠ e) (hn : s.n + 1 = 100) (hsurf : ignIndex x = none ∨ s.cfg.policy = .strict) :
    exec i s = .next (s.timedOut x b e) := by
  rw [h.exec_of_move (.surfaced ((bitMatches_eq_false_iff _ b e).2 hv) hn hsurf)]
  simp [State.timedOut, State.raise, timeoutRecord, h.bit, h.expected, State.afterRead, State.ioRead, Config.pollLimit]

/-- After a surfaced timeout the Engine has no step. -/
theorem engineStep_timedOut (x : WaitPhase) (b : BitVec 3) (e : Bool) (s : State) :
    engineStep (s.timedOut x b e) = .refused .stepNotEnabled :=
  engineStep_refused _ rfl

/-- Settles O30: under STRICT every timeout is surfaced, and the invariant has `IGN` 0. -/
theorem strictFailsOnAnIntermediateTimeout : Obligations.StrictFailsOnAnIntermediateTimeout := by
  intro s i x b e hs hpol hph _ hi hb he hv hn
  have hown : Phase.wait x ∈ phasesOf i := hph ▸ hs.phase_mem (by rw [hph]; rfl) hi
  have hw : Awaiting i x b e s := ⟨hph, hi, hown, hb, he⟩
  exact ⟨s.timedOut x b e, hw.exec_timedOut hv hn (.inr hpol), hs.strictMask hpol, engineStep_timedOut x b e s, rfl⟩

/-- Settles O31: W_OBF and W4 have no bit of `IGN`, and the invariant has no `RES` yet. -/
theorem finalTimeoutFailsUnderEitherPolicy : Obligations.FinalTimeoutFailsUnderEitherPolicy := by
  intro s i x b e hs hph hx hi hb he hv hn
  have hp : inProgress s.phase = true := by rw [hph]; rfl
  have hw : Awaiting i x b e s := ⟨hph, hi, hph ▸ hs.phase_mem hp hi, hb, he⟩
  have hfinal : ignIndex x = none := by rcases hx with rfl | rfl <;> rfl
  exact ⟨s.timedOut x b e, hw.exec_timedOut hv hn (.inl hfinal), hs.res_none hp, engineStep_timedOut x b e s, rfl⟩

/-! ## A consistent state never stops (R132) -/

/-- In DONE the step is the Host's `collect` (10_state.md R27). -/
theorem step_done (s : State) (hwf : s.cfg.wf = true) (hd : s.phase = .done) : step s = .next (s.collected .done) := by
  simp [step, hwf, move, hd, collect_done]

/-- In IDLE the step always answers: the Host has a word to issue, or waits (log 7). -/
theorem step_idle_next (s : State) (hwf : s.cfg.wf = true) (hidle : s.phase = .idle) : ∃ t, step s = .next t := by
  cases hq : s.hostQueue with
  | nil => exact ⟨s, step_runEnded s hwf ((runEnded_iff s).2 ⟨hidle, hq⟩)⟩
  | cons w rest =>
    rw [step_idle s w rest hwf hidle hq]
    exact issueWord_idle w { s with hostQueue := rest } hidle

/-- Settles O43: the Host's moves always answer, and the Engine's by `Consistent.engineStep_next`. -/
theorem consistentStateNeverStops : Obligations.ConsistentStateNeverStops := by
  intro s hs hwf
  by_cases hidle : s.phase = .idle
  · exact step_idle_next s hwf hidle
  by_cases hdone : s.phase = .done
  · exact ⟨_, step_done s hwf hdone⟩
  by_cases hfailed : s.phase = .failed
  · exact ⟨_, step_failed s hwf hfailed⟩
  have hp := inProgress_of_ne s.phase hidle hdone hfailed
  obtain ⟨t, ht⟩ := hs.engineStep_next hp
  exact ⟨t, by rw [step, if_pos hwf, move_inProgress s hp, ht]⟩

/-! ## The request in flight is kept to its end -/

theorem acquireStep_inFlight (p : PortSel) (s : State) : inFlight (acquireStep p s) = inFlight s := by
  rcases acquireStep_cases p s with ⟨_, h⟩ | ⟨_, _, h⟩ | ⟨_, _, h⟩ <;> rw [h]
  · rfl
  · cases p <;> rfl
  · rfl

theorem inbStep_inFlight (p : PortSel) (s : State) : inFlight (inbStep p s) = inFlight s := by
  cases p <;> rfl

theorem AttemptMove.inFlight_eq {x : WaitPhase} {b : BitVec 3} {e : Bool} {s t : State} (h : AttemptMove x b e s t) :
    inFlight t = inFlight s := by
  cases h <;> rfl

/-- No move of the Engine changes what `OP` and the operand registers hold; a send step writes `WB` and `WE`, operands of WAIT only. -/
theorem EngineMove.inFlight_kept {i : Instr} {s t : State} (h : EngineMove i s t) (hi : inFlight s = some i) :
    inFlight t = some i := by
  cases h with
  | acquires p _ _ => exact (acquireStep_inFlight p s).trans hi
  | reads p _ _ => exact (inbStep_inFlight p s).trans hi
  | writes p v _ _ => exact hi
  | polls x b e _ _ _ _ => exact (s.attempt_move x b e).inFlight_eq.trans hi
  | sends p v x hsend =>
    obtain ⟨_, _, hop⟩ := SendsThen.next_wait hsend
    exact inFlight_of_registers_kept hi (by simp [sendStep]) (by simp [sendStep]) (by simp [sendStep]) (by simp [sendStep])
      fun hw => absurd hw hop
  | receives _ _ _ => exact hi

/-- An issue ends in the request's entry phase, or in FAILED. -/
theorem State.issue_phase (i : Instr) (s : State) : (s.issue i).phase = entryPhase i ∨ (s.issue i).phase = .failed := by
  rcases s.issue_cases i with ⟨_, h⟩ | ⟨_, _, h⟩ <;> simp [h]

theorem entryPhase_ne_done (i : Instr) : entryPhase i ≠ .done := by
  cases i <;> simp [entryPhase]

/-- Only the Engine's move of the request in flight brings it to DONE. -/
theorem StepMove.engine_of_done {s t : State} (h : StepMove s t) (hs : s.phase ≠ .done) (ht : t.phase = .done) :
    ∃ i, inProgress s.phase = true ∧ inFlight s = some i ∧ EngineMove i s t := by
  cases h with
  | waits _ _ => exact absurd ht hs
  | issues w rest i _ _ _ =>
    rcases State.issue_phase i { s with hostQueue := rest } with hph | hph
    · exact absurd (hph.symm.trans ht) (entryPhase_ne_done i)
    · cases hph.symm.trans ht
  | refuses w rest why _ _ _ => cases ht
  | collectsDone _ => cases ht
  | collectsFailed _ => cases ht
  | engine i t hp hi hm => exact ⟨i, hp, hi, hm⟩

/-- The phase table leads to DONE only from the request's last phase, which for READ is RX_DATA. -/
theorem rxData_of_next_done {a : Byte} {ph : Phase} (hph : ph ∈ phasesOf (.read a)) (hnext : nextPhase .read ph = some .done) :
    ph = .rxData := by
  simp only [phasesOf, List.mem_cons, List.not_mem_nil, or_false] at hph
  rcases hph with rfl | rfl | rfl | rfl | rfl | hrx
  on_goal 6 => exact hrx
  all_goals cases hnext

/-- A move to DONE is the one the phase table gives. -/
theorem EngineMove.next_done {i : Instr} {s t : State} (h : EngineMove i s t) (ht : t.phase = .done) :
    nextPhase i.op s.phase = some .done := by
  rcases h.follows with hnext | ⟨x, _, hph, _⟩ | ⟨_, hph, _⟩ | ⟨x, _, hph, _⟩
  · rw [hnext, ht]
  · cases ht.symm.trans hph
  · cases ht.symm.trans hph
  · cases ht.symm.trans hph

/-- Settles O39: the move to DONE is the receive step of RX_DATA. -/
theorem doneReadReturnsTheByteJustRead : Obligations.DoneReadReturnsTheByteJustRead := by
  intro s t hs h hne hdone hop
  obtain ⟨hwf, hmove⟩ := step_next s t h
  obtain ⟨i, hp, hi, hm⟩ := hmove.engine_of_done hne hdone
  have hread : i.op = .read := Option.some.inj ((inFlight_registers t i (hm.inFlight_kept hi)).1.symm.trans hop)
  cases i <;> cases hread
  case read a =>
    have hrx : s.phase = .rxData := rxData_of_next_done (hs.phase_mem hp hi) (hm.next_done hdone)
    rw [stepRunsTheRequestInFlight s _ hwf hp hi, exec_receives s a hi hrx] at h
    obtain rfl : receiveStep s = t := by injection h
    exact ⟨rfl, receiveStep_trace s⟩

end Sys2Proof.Machine
end

section
/-! PROOFS of the family 42_transactions.md: every request ends within its bound (R131, R132). -/

open Sys2Proof Sys2Proof.Machine

namespace Sys2Proof.Machine

/-! ## The steps a request has left (42_transactions.md R131) -/

/-- The most Engine steps spent in one phase: a wait makes `POLL_LIMIT` attempts, every other phase is one step. -/
def phaseSteps : Phase → Nat
  | .wait _ => Config.pollLimit
  | _ => 1

/-- The most Engine steps from the entry of the phase `ph` of the request `i` to its end; 0 for a phase that is none of its own. -/
def stepsFrom (i : Instr) (ph : Phase) : Nat := (((phasesOf i).dropWhile (· ≠ ph)).map phaseSteps).sum

/-- The most Engine steps the request `i` has left: those of its phase, less the attempts already made in it. -/
def State.stepsLeft (i : Instr) (s : State) : Nat := stepsFrom i s.phase - s.n

theorem stepsFrom_entryPhase (i : Instr) : stepsFrom i (entryPhase i) = stepBound i := by
  cases i <;> rfl

theorem stepsFrom_failed (i : Instr) : stepsFrom i .failed = 0 := by
  cases i <;> rfl

/-- The phase table takes a phase of the request to another of its own, or to DONE, and uses up the steps of the phase left. -/
theorem stepsFrom_next {i : Instr} {ph next : Phase} (hph : ph ∈ phasesOf i) (h : nextPhase i.op ph = some next) :
    (next = .done ∨ next ∈ phasesOf i) ∧ stepsFrom i ph = phaseSteps ph + stepsFrom i next := by
  cases i <;> simp only [phasesOf, List.mem_cons, List.not_mem_nil, or_false] at hph
  case read a => rcases hph with rfl | rfl | rfl | rfl | rfl | rfl <;> cases h <;> exact ⟨by simp [phasesOf, Instr.op], rfl⟩
  case write a v => rcases hph with rfl | rfl | rfl | rfl | rfl | rfl | rfl <;> cases h <;> exact ⟨by simp [phasesOf, Instr.op], rfl⟩
  all_goals
    subst hph
    cases h
    exact ⟨.inl rfl, rfl⟩

theorem phaseSteps_le_stepsFrom {i : Instr} {ph : Phase} (hph : ph ∈ phasesOf i) : phaseSteps ph ≤ stepsFrom i ph := by
  cases hnext : nextPhase i.op ph with
  | some next =>
    rw [(stepsFrom_next hph hnext).2]
    exact Nat.le_add_right _ _
  | none =>
    have hp := inProgress_of_mem_phasesOf i ph hph
    cases ph with
    | wait x => cases (nextPhase_wait i.op x).symm.trans hnext
    | idle => cases hp
    | _ => cases hnext

/-- The attempts made never use up the steps of the phase (10_state.md R21, R23). -/
theorem Consistent.n_lt_phaseSteps {s : State} (hs : Consistent s) : s.n < phaseSteps s.phase := by
  by_cases hw : ∃ x, s.phase = .wait x
  · obtain ⟨x, hx⟩ := hw
    rw [hx]
    exact hs.counterBelowLimit
  · rw [hs.counterOnlyInWaits fun x hx => hw ⟨x, hx⟩]
    unfold phaseSteps
    split <;> decide

theorem Consistent.stepsLeft_pos {s : State} (hs : Consistent s) {i : Instr} (hph : s.phase ∈ phasesOf i) : 0 < s.stepsLeft i :=
  Nat.sub_pos_of_lt (hs.n_lt_phaseSteps.trans_le (phaseSteps_le_stepsFrom hph))

/-- The request has ended (10_state.md R27). -/
def Ended (s : State) : Prop := s.phase = .done ∨ s.phase = .failed

/-- Each of the Engine's moves ends the request or leaves it in a phase of its own, and it has fewer steps left than before. -/
theorem Consistent.stepsLeft_decreases {s t : State} (hs : Consistent s) {i : Instr} (hph : s.phase ∈ phasesOf i)
    (hm : EngineMove i s t) : (Ended t ∨ t.phase ∈ phasesOf i) ∧ t.stepsLeft i < s.stepsLeft i := by
  have hpos := hs.stepsLeft_pos hph
  have hn := hs.n_lt_phaseSteps
  have hfail : t.phase = .failed → (Ended t ∨ t.phase ∈ phasesOf i) ∧ t.stepsLeft i < s.stepsLeft i := fun hf =>
    ⟨.inl (.inr hf), by rwa [State.stepsLeft, hf, stepsFrom_failed, Nat.zero_sub]⟩
  unfold State.stepsLeft at hpos ⊢
  rcases hm.follows with hnext | ⟨x, hx, hx', _, hcount⟩ | ⟨_, hf, _⟩ | ⟨_, _, hf, _⟩
  · obtain ⟨hmem, hsteps⟩ := stepsFrom_next hph hnext
    exact ⟨hmem.imp_left .inl, by omega⟩
  · have hsame : t.phase = s.phase := hx'.trans hx.symm
    exact ⟨.inr (hsame ▸ hph), by rw [hsame]; omega⟩
  · exact hfail hf
  · exact hfail hf

/-! ## The run of a request to its end (R132) -/

/-- A step makes at most one port event (00_scope.md R10). -/
theorem step_portEvents_le {s t : State} (h : step s = .next t) : portEvents t.trace ≤ portEvents s.trace + 1 := by
  have hone : ∀ ev, portEvents [ev] ≤ 1 := fun ev => List.countP_le_length
  have happend : ∀ u v, portEvents (u ++ v) = portEvents u + portEvents v := fun u v => List.countP_append
  rcases stepMakesAtMostOneAccess s t h with htr | ⟨ev, _, htr⟩ | ⟨x, v, _, htr⟩ <;> rw [htr]
  · exact Nat.le_succ _
  · rw [happend]
    exact Nat.add_le_add_left (hone ev) _
  · rw [happend]
    exact le_refl _

/-- A request in flight in a consistent state ends within the steps it has left, and no step makes more than one port event. -/
theorem Consistent.ends_within {i : Instr} (m : Nat) {s : State} (hs : Consistent s) (hwf : s.cfg.wf = true)
    (hi : inFlight s = some i) (hph : Ended s ∨ s.phase ∈ phasesOf i) (hleft : s.stepsLeft i ≤ m) :
    ∃ k t, k ≤ m ∧ runSteps k s = .next t ∧ Ended t ∧ portEvents t.trace ≤ portEvents s.trace + k := by
  induction m generalizing s with
  | zero =>
    rcases hph with hend | hph
    · exact ⟨0, s, le_refl 0, rfl, hend, le_refl _⟩
    · exact absurd (hs.stepsLeft_pos hph) (Nat.not_lt.2 hleft)
  | succ m ih =>
    rcases hph with hend | hph
    · exact ⟨0, s, Nat.zero_le _, rfl, hend, le_refl _⟩
    · obtain ⟨t, hstep⟩ := consistentStateNeverStops s hs hwf
      have hm : EngineMove i s t := step_inFlight s t i (inProgress_of_mem_phasesOf i _ hph) hi hstep
      obtain ⟨hph', hless⟩ := hs.stepsLeft_decreases hph hm
      obtain ⟨k, u, hk, hrun, hend, hevents⟩ := ih (stepKeepsConsistent s t hs hstep) (hm.cfg_eq ▸ hwf) (hm.inFlight_kept hi) hph'
        (Nat.le_of_lt_succ (hless.trans_le hleft))
      refine ⟨k + 1, u, Nat.succ_le_succ hk, (runSteps_succ k s t hstep).trans hrun, hend, ?_⟩
      have hone := step_portEvents_le hstep
      omega

/-- An issue latches the request, whether it enters its first phase or fails. -/
theorem inFlight_issue (i : Instr) (s : State) : inFlight (s.issue i) = some i := by
  have hlatch := inFlight_latch i s.clearRequest
  rcases s.issue_cases i with ⟨_, h⟩ | ⟨_, _, h⟩ <;> rw [h]
  · refine inFlight_of_registers_kept hlatch (by simp) (by simp) (by simp) (by simp) fun hw => ?_
    cases i <;> cases hw
    simp [entryPhase]
  · exact hlatch

theorem issue_ended_or_own (i : Instr) (s : State) : Ended (s.issue i) ∨ (s.issue i).phase ∈ phasesOf i := by
  rcases s.issue_phase i with hph | hph
  · exact .inr (hph ▸ entryPhase_mem i)
  · exact .inl (.inr hph)

theorem stepsLeft_issue_le (i : Instr) (s : State) : (s.issue i).stepsLeft i ≤ stepBound i := by
  refine (Nat.sub_le _ _).trans ?_
  rcases s.issue_phase i with hph | hph <;> rw [hph]
  · exact (stepsFrom_entryPhase i).le
  · rw [stepsFrom_failed]
    exact Nat.zero_le _

/-- Settles O34: the issue, and then the run of `Consistent.ends_within` from the state it leaves. -/
theorem everyRequestEndsWithinItsBound : Obligations.EveryRequestEndsWithinItsBound := by
  intro s w rest i hwf hidle hq hd
  refine ⟨rfl, rfl, ?_⟩
  have hissue : step s = .next ({ s with hostQueue := rest }.issue i) := by
    rw [stepIssuesTheDecodedRequest s w rest i hwf hidle hq hd]
    exact exec_idle _ i hidle
  obtain ⟨k, t, hk, hrun, hend, hevents⟩ := (consistent_issue i { s with hostQueue := rest }).ends_within (stepBound i)
    (by rwa [State.issue_cfg]) (inFlight_issue i _) (issue_ended_or_own i _) (stepsLeft_issue_le i _)
  refine ⟨k, t, hk, ?_, hend, by rwa [State.issue_trace] at hevents⟩
  rw [Nat.add_comm, runSteps_succ k _ _ hissue, hrun]

end Sys2Proof.Machine
end

section
/-! PROOFS of the family 42_transactions.md: READ and WRITE against the reference EC (92_eei_decisions.md D16), a test oracle and no claim
about hardware. -/

open Sys2Proof Sys2Proof.Machine

namespace Sys2Proof.Machine

/-! ## Runs of the machine against the reference EC -/

theorem benchRun_succ (k : Nat) (b b' : Bench) (h : benchStep b = .next b') : benchRun (k + 1) b = benchRun k b' := by
  simp [benchRun, h]

/-- Two runs one after the other. -/
theorem benchRun_add (j k : Nat) (b b' : Bench) (h : benchRun j b = .next b') : benchRun (j + k) b = benchRun k b' := by
  induction j generalizing b with
  | zero =>
    injection h with h
    rw [Nat.zero_add, h]
  | succ j ih =>
    rw [Nat.add_right_comm]
    cases hs : benchStep b with
    | next u =>
      rw [benchRun_succ _ _ _ hs] at h ⊢
      exact ih u h
    | fault f => simp [benchRun, hs] at h
    | refused r => simp [benchRun, hs] at h

/-- The reference EC sees the events `es` that the machine's step adds to the trace. -/
theorem benchStep_of_step {b : Bench} {t : State} (es : List Event) (h : step (answeredBy b.ec b.machine) = .next t)
    (ht : t.trace = b.machine.trace ++ es) :
    benchStep b = .next { machine := t, ec := es.foldl (ecReact b.machine.cfg) b.ec } := by
  simp [benchStep, h, ht]

/-! ## What the reference EC answers and does -/

/-- With nothing latched the reference EC is ready for a byte: IBF is 0. -/
theorem ready_of_out_none {c : Config} {ec : RefEc} {x : WaitPhase} (ht : waitTarget c x = some (ibfBit c, false))
    (h : ec.out = none) : Ready c x (ecStatus c ec) :=
  ready_of_ibf ht (by simp [ibf, statusBit, ecStatus, h])

/-- With a result latched the reference EC shows OBF = 1, a flag within the byte in a well-formed table (00_scope.md R6). -/
theorem ready_of_out_some {c : Config} {ec : RefEc} {v : Byte} (hwf : c.wf = true) (h : ec.out = some v) :
    Ready c .wObf (ecStatus c ec) := by
  have hd : c.distinct = true := by
    rw [Config.wf, Bool.and_eq_true] at hwf
    exact hwf.1
  obtain ⟨_, _, _, hbit, _⟩ := c.distinct_iff.1 hd
  refine ready_of_obf ?_
  have hn : (obfBit c).toNat = c.obfBit := by
    rw [obfBit, BitVec.toNat_ofNat]
    omega
  simpa [obf, statusBit, hn, ecStatus, h] using Nat.lt_succ_of_le hbit

/-- The command byte of READ. -/
theorem ecReact_cmdRead (c : Config) (ec : RefEc) : ecReact c ec (.ioWrite .sc c.cmdRead) = { ec with mode := .rd } := by
  simp [ecReact, ecCommand]

/-- The command byte of WRITE, where it is not READ's. -/
theorem ecReact_cmdWrite (c : Config) (ec : RefEc) (h : c.cmdRead ≠ c.cmdWrite) :
    ecReact c ec (.ioWrite .sc c.cmdWrite) = { ec with mode := .wr } := by
  simp [ecReact, ecCommand, h.symm]

/-! ## A transaction on its way against the reference EC -/

/-- The bench `b` is in the phase `ph` of the transaction `i`, under the table `c`, with the words `q` still to issue; every wait so
far succeeded at once, and the reference EC is `ec`. -/
structure Serves (c : Config) (q : List RequestWord) (i : Instr) (ph : Phase) (ec : RefEc) (b : Bench) : Prop where
  ec : b.ec = ec
  underway : ∃ s rest events, s.cfg = c ∧ s.hostQueue = q ∧ Underway s i ph rest events b.machine

/-- A transaction stays on its way when the reference EC's answers become its next ones. -/
theorem Underway.after_answers {s t : State} {i : Instr} {ph : Phase} {rest : List Byte} {events : List Event}
    (h : Underway s i ph rest events t) (ec : RefEc) :
    Underway (answeredBy ec s) i ph [ecStatus s.cfg ec] events (answeredBy ec t) :=
  { h with
    statusIn := by rw [← h.cfg]; rfl
    dataIn := rfl }

section
variable {c : Config} {q : List RequestWord} {i : Instr} {ec : RefEc} {b : Bench} {x : WaitPhase}

/-- The state after a step, with what the reference EC then is. -/
theorem Serves.of_underway {s t : State} {ec' : RefEc} {ph : Phase} {rest : List Byte} {events : List Event}
    (h : Underway s i ph rest events t) (hc : s.cfg = c) (hq : s.hostQueue = q) (hec : ec' = ec) :
    Serves c q i ph ec { machine := t, ec := ec' } :=
  ⟨hec, s, rest, events, hc, hq, h⟩

theorem Serves.cfg_eq {ph : Phase} (h : Serves c q i ph ec b) : b.machine.cfg = c := by
  obtain ⟨_, s, rest, events, hc, _, hun⟩ := h
  exact hun.cfg.trans hc

/-- The step that issues a transaction from IDLE with both grants (log 5, 6). -/
theorem benchStep_issues (hi : entryPhase i = .wait .w1) (hwf : b.machine.cfg.wf = true) (hidle : b.machine.phase = .idle)
    (hsc : b.machine.gsc = true) (hdata : b.machine.gdata = true) (hq : b.machine.hostQueue = encode i :: q) :
    ∃ b', benchStep b = .next b' ∧ Serves b.machine.cfg q i (.wait .w1) b.ec b' := by
  obtain ⟨t, hstep, hun⟩ := step_issues_transaction (answeredBy b.ec b.machine) i q hi hwf hidle hsc hdata hq
  exact ⟨_, benchStep_of_step [] hstep hun.trace, .of_underway hun rfl rfl rfl⟩

/-- A wait that the reference EC's status satisfies is left by one step, which the EC does not notice. -/
theorem Serves.wait_succeeds (h : Serves c q i (.wait x) ec b) (hwf : c.wf = true) (hx : Phase.wait x ∈ phasesOf i)
    (hv : Ready c x (ecStatus c ec)) : ∃ b', benchStep b = .next b' ∧ Serves c q i (successPhase x) ec b' := by
  obtain ⟨rfl, s, rest, events, rfl, rfl, hun⟩ := h
  obtain ⟨t, hstep, _, hun'⟩ := (hun.after_answers b.ec).wait_succeeds hwf hx hv
  refine ⟨_, benchStep_of_step [.ioRead .sc (ecStatus s.cfg b.ec)] hstep ?_, .of_underway hun' rfl rfl rfl⟩
  rw [hun'.trace, hun.trace, List.append_assoc]
  rfl

/-- A send step is one step, and the reference EC takes its byte. -/
theorem Serves.sends {ph : Phase} {p : PortSel} {v : Byte} {y : WaitPhase} (h : Serves c q i ph ec b) (hwf : c.wf = true)
    (hsend : ∀ u : State, u.phase = ph → u.cfg = c → SendsThen i u p v y) :
    ∃ b', benchStep b = .next b' ∧ Serves c q i (.wait y) (ecReact c ec (.ioWrite p v)) b' := by
  have hc := h.cfg_eq
  obtain ⟨rfl, s, rest, events, rfl, rfl, hun⟩ := h
  obtain ⟨t, hstep, hun'⟩ := (hun.after_answers b.ec).sends hwf (hsend (answeredBy b.ec b.machine) hun.phase hc)
  refine ⟨_, benchStep_of_step [.ioWrite p v] hstep ?_, .of_underway hun' rfl rfl (congrArg (ecReact · b.ec (.ioWrite p v)) hc)⟩
  rw [hun'.trace, hun.trace, List.append_assoc]
  rfl

/-- One exchange of a byte protocol against the reference EC: a wait for IBF = 0, and the send step after it. -/
theorem Serves.exchange {p : PortSel} {v : Byte} {y : WaitPhase} (h : Serves c q i (.wait x) ec b) (hwf : c.wf = true)
    (hx : Phase.wait x ∈ phasesOf i) (ht : waitTarget c x = some (ibfBit c, false)) (hout : ec.out = none)
    (hsend : ∀ u : State, u.phase = successPhase x → u.cfg = c → SendsThen i u p v y) :
    ∃ b', benchRun 2 b = .next b' ∧ Serves c q i (.wait y) (ecReact c ec (.ioWrite p v)) b' := by
  obtain ⟨b1, h1, hat1⟩ := h.wait_succeeds hwf hx (ready_of_out_none ht hout)
  obtain ⟨b2, h2, hat2⟩ := hat1.sends hwf hsend
  refine ⟨b2, ?_, hat2⟩
  rw [benchRun_succ _ _ _ h1, benchRun_succ _ _ _ h2]
  rfl

/-- The receive step of a READ takes the byte the reference EC has latched. -/
theorem Serves.receives {a : Byte} (h : Serves c q (.read a) .rxData ec b) (hwf : c.wf = true) :
    ∃ b', benchStep b = .next b' ∧ b'.machine.phase = .done ∧ b'.machine.res = some (ecData ec) ∧ b'.machine.ign = 0#3 ∧
      b'.ec = { ec with out := none } ∧ b'.machine.hostQueue = q := by
  have hc := h.cfg_eq
  obtain ⟨rfl, s, rest, events, rfl, rfl, hun⟩ := h
  have hstep : step (answeredBy b.ec b.machine) = .next (receiveStep (answeredBy b.ec b.machine)) := by
    have hat := hun.after_answers b.ec
    rw [stepRunsTheRequestInFlight _ _ (hat.cfg ▸ hwf) (by rw [hat.phase]; rfl) hat.request, exec_receives _ a hat.request hat.phase]
  exact ⟨_, benchStep_of_step [.ioRead .data (ecData b.ec)] hstep (receiveStep_trace _), rfl, rfl, hun.ign, rfl, hun.hostQueue⟩

/-- The Host collects the DONE result, and the reference EC does not notice. -/
theorem Serves.collected (h : Serves c q i .done ec b) (hwf : c.wf = true) :
    ∃ b', benchStep b = .next b' ∧ b'.ec = ec ∧ b'.machine.cfg = c ∧ b'.machine.phase = .idle ∧ b'.machine.gsc = true ∧
      b'.machine.gdata = true ∧ b'.machine.hostQueue = q := by
  have hc := h.cfg_eq
  obtain ⟨rfl, s, rest, events, rfl, rfl, hun⟩ := h
  have hstep := step_done (answeredBy b.ec b.machine) (hun.cfg ▸ hwf) hun.phase
  refine ⟨_, benchStep_of_step [] hstep (List.append_nil _).symm, rfl, hc, rfl, hun.gsc, hun.gdata, ?_⟩
  exact (queueAfter_eq _ _ _ (.inr rfl)).trans hun.hostQueue

end

/-! ## READ and WRITE (92_eei_decisions.md D16) -/

/-- Settles O59: the issue, two exchanges, W_OBF and the receive step, with what the EC does at each. -/
theorem referenceEcReadReturnsTheRegister : Obligations.ReferenceEcReadReturnsTheRegister := by
  intro b a q hwf hidle hsc hdata hq hout
  obtain ⟨b0, hrun0, hat0⟩ := benchStep_issues (i := .read a) rfl hwf hidle hsc hdata hq
  obtain ⟨b1, hrun1, hat1⟩ := hat0.exchange (p := .sc) (v := b.machine.cfg.cmdRead) (y := .w2) hwf (by simp [phasesOf]) rfl hout
    fun u hph hcfg => .inl ⟨hph, rfl, rfl, .inl ⟨a, rfl, by rw [hcfg]⟩⟩
  rw [ecReact_cmdRead] at hat1
  obtain ⟨b2, hrun2, hat2⟩ := hat1.exchange (p := .data) (v := a) (y := .wObf) hwf (by simp [phasesOf]) rfl hout
    fun u hph _ => .inr (.inl ⟨hph, rfl, .inl ⟨rfl, rfl⟩⟩)
  obtain ⟨b3, hrun3, hat3⟩ := hat2.wait_succeeds hwf (by simp [phasesOf]) (ready_of_out_some hwf rfl)
  obtain ⟨b4, hrun4, hdone, hres, hign, hec, hq4⟩ := hat3.receives hwf
  refine ⟨b4, ?_, hdone, hres, hign, hec, hq4⟩
  rw [benchRun_succ 6 _ _ hrun0, benchRun_add 2 4 _ _ hrun1, benchRun_add 2 2 _ _ hrun2, benchRun_succ 1 _ _ hrun3,
    benchRun_succ 0 _ _ hrun4]
  rfl

/-- A WRITE and the collecting of its result against the reference EC: the byte is in its slot. -/
theorem benchRun_write_collect {b : Bench} {a v : Byte} {q : List RequestWord} (hwf : b.machine.cfg.wf = true)
    (hcmd : b.machine.cfg.cmdRead ≠ b.machine.cfg.cmdWrite) (hidle : b.machine.phase = .idle) (hsc : b.machine.gsc = true)
    (hdata : b.machine.gdata = true) (hq : b.machine.hostQueue = encode (.write a v) :: q) (hout : b.ec.out = none) :
    ∃ b', benchRun 9 b = .next b' ∧ b'.ec = { reg := writeByte a.toNat v b.ec.reg, mode := .idle, out := none } ∧
      b'.machine.cfg = b.machine.cfg ∧ b'.machine.phase = .idle ∧ b'.machine.gsc = true ∧ b'.machine.gdata = true ∧
      b'.machine.hostQueue = q := by
  obtain ⟨b0, hrun0, hat0⟩ := benchStep_issues (i := .write a v) rfl hwf hidle hsc hdata hq
  obtain ⟨b1, hrun1, hat1⟩ := hat0.exchange (p := .sc) (v := b.machine.cfg.cmdWrite) (y := .w2) hwf (by simp [phasesOf]) rfl hout
    fun u hph hcfg => .inl ⟨hph, rfl, rfl, .inr ⟨a, v, rfl, by rw [hcfg]⟩⟩
  rw [ecReact_cmdWrite _ _ hcmd] at hat1
  obtain ⟨b2, hrun2, hat2⟩ := hat1.exchange (p := .data) (v := a) (y := .w3) hwf (by simp [phasesOf]) rfl hout
    fun u hph _ => .inr (.inl ⟨hph, rfl, .inr ⟨⟨v, rfl⟩, rfl⟩⟩)
  obtain ⟨b3, hrun3, hat3⟩ := hat2.exchange (p := .data) (v := v) (y := .w4) hwf (by simp [phasesOf]) rfl hout
    fun u hph _ => .inr (.inr ⟨hph, rfl, rfl, a, rfl⟩)
  obtain ⟨b4, hrun4, hat4⟩ := hat3.wait_succeeds hwf (by simp [phasesOf]) (ready_of_out_none rfl hout)
  obtain ⟨b5, hrun5, hec, hrest⟩ := hat4.collected hwf
  refine ⟨b5, ?_, ?_, hrest⟩
  · rw [benchRun_succ 8 _ _ hrun0, benchRun_add 2 6 _ _ hrun1, benchRun_add 2 4 _ _ hrun2, benchRun_add 2 2 _ _ hrun3,
      benchRun_succ 1 _ _ hrun4, benchRun_succ 0 _ _ hrun5]
    rfl
  · rw [hec, ← hout]
    rfl

/-- A byte memory after a write, read at any address (`Laws/Memory.lean`). -/
theorem readByte_writeByte (a a' v : Byte) (m : Memory) (h : memoryWf m = true) :
    readByte a'.toNat (writeByte a.toNat v m) = if a' = a then v else readByte a'.toNat m := by
  split
  · next heq => rw [heq, readByte_writeByte_same _ _ _ h]
  · next hne => exact readByte_writeByte_other _ _ _ _ fun heq => hne (BitVec.eq_of_toNat_eq heq.symm)

/-- Settles O60: the WRITE and its collect, and then O59 on the register space the WRITE left. -/
theorem referenceEcReadAfterWrite : Obligations.ReferenceEcReadAfterWrite := by
  intro b a v a' q hwf hcmd hmem hidle hsc hdata hq hout
  obtain ⟨b1, hrun1, hec1, hcfg1, hidle1, hsc1, hdata1, hq1⟩ := benchRun_write_collect hwf hcmd hidle hsc hdata hq hout
  obtain ⟨b2, hrun2, hdone, hres, _, hec2, _⟩ :=
    referenceEcReadReturnsTheRegister b1 a' q (hcfg1 ▸ hwf) hidle1 hsc1 hdata1 hq1 (by rw [hec1])
  refine ⟨b2, (benchRun_add 9 7 b b1 hrun1).trans hrun2, hdone, ?_, ?_⟩
  · rw [hres, hec1, readByte_writeByte a a' v b.ec.reg hmem]
  · rw [hec2, hec1]
    exact memoryWf_writeByte a.toNat v b.ec.reg hmem

end Sys2Proof.Machine
end

section
/-! PROOFS of the family 43_host_sequences.md: the Host's arithmetic (R151 to R156), the requests and reports of `set` and `get` (R160 to
R167, R170), and the `get` without privilege (R168). -/

open Sys2Proof Sys2Proof.Machine

namespace Sys2Proof.Machine

/-! ## The Host's arithmetic (43_host_sequences.md R151 to R156) -/

theorem scaleUp_eq (p : Nat) : scaleUp p = (510 * p + 100) / 200 := rfl

/-- `scale_down` rounds to a nearest percentage: it is off by at most half of one (R151). -/
theorem scaleDown_rounds (r : Nat) : 510 * scaleDown r ≤ 200 * r + 255 ∧ 200 * r ≤ 510 * scaleDown r + 255 := by
  have h : scaleDown r = (200 * r + 255) / 510 := rfl
  omega

/-- `scale_up` rounds to a nearest raw duty: it is off by at most half of one (R152). -/
theorem scaleUp_rounds (p : Nat) : 200 * scaleUp p ≤ 510 * p + 100 ∧ 510 * p ≤ 200 * scaleUp p + 100 := by
  have h := scaleUp_eq p
  omega

/-- Settles O51: two roundings, each off by at most half a unit, are together less than two raw units apart and less than one
percentage. -/
theorem scalingRoundTrips : Obligations.ScalingRoundTrips := by
  refine ⟨fun r _ => ?_, fun p _ => ?_⟩
  · have hdown := scaleDown_rounds r
    have hup := scaleUp_rounds (scaleDown r)
    omega
  · have hup := scaleUp_rounds p
    have hdown := scaleDown_rounds (scaleUp p)
    omega

theorem rpm_of_ne_zero {c : Nat} (h : c ≠ 0) : rpm c = 2156220 / c := if_neg h

/-- Settles O52: the quotient falls from 2156220 at 1 to 32 at 65535. -/
theorem rpmOfACount : Obligations.RpmOfACount := by
  refine ⟨rfl, fun c hc => rpm_of_ne_zero hc, fun c hpos hle => ?_⟩
  rw [rpm_of_ne_zero (Nat.ne_of_gt hpos)]
  refine ⟨(Nat.le_div_iff_mul_le hpos).2 ?_, Nat.div_le_self 2156220 c⟩
  calc 32 * c
    _ ≤ 32 * 65535 := Nat.mul_le_mul_left 32 hle
    _ ≤ 2156220 := by decide

/-! ## The validation of `set` (43_host_sequences.md R165) -/

theorem validDuty_eq_none {arg : Option Int} (h : ∀ p, arg = some p → p < 0 ∨ 100 < p) : validDuty arg = none := by
  cases arg with
  | none => rfl
  | some p =>
    have hout : ¬ (0 ≤ p ∧ p ≤ 100) := by
      have hp := h p rfl
      omega
    exact if_neg hout

theorem validDuty_natCast {p : Nat} (h : p ≤ 100) : validDuty (some (p : Int)) = some p :=
  if_pos ⟨Int.natCast_nonneg p, Int.ofNat_le.2 h⟩

/-- Settles O53: `validDuty` decides both the requests and the report. -/
theorem setIsValidatedBeforeAnyRequest : Obligations.SetIsValidatedBeforeAnyRequest := by
  intro c rs
  refine ⟨fun arg hbad => ⟨?_, ?_⟩, fun p hp => ?_⟩
  · rw [commandRequests, validDuty_eq_none hbad]
  · rw [report, validDuty_eq_none hbad, closeReport]
  · rw [commandRequests, validDuty_natCast hp, ← scaleUp_eq]

/-! ## The requests of `get` (43_host_sequences.md R160 to R164, R166) -/

theorem flatMap_readingRequests_ite (c : Config) (b : Bool) (r : Reading) :
    (if b = true then [r] else []).flatMap (readingRequests c) = if b = true then readingRequests c r else [] := by
  cases b <;> simp

theorem selectedReadings_of_any {f : Selectors} (h : f.cpu = true ∨ f.gpu = true ∨ f.duty = true ∨ f.rpms = true) :
    selectedReadings f =
      (if f.cpu = true then [.cpuTemp] else []) ++ (if f.gpu = true then [.gpuTemp] else [])
        ++ (if f.duty = true then [.fanDuty] else []) ++ (if f.rpms = true then [.fanRpms] else []) :=
  if_pos (by simpa [or_assoc] using h)

/-- Settles O54: the requests of the selected readings, reading by reading. -/
theorem getIssuesTheFixedOrder : Obligations.GetIssuesTheFixedOrder := by
  intro c bare
  refine ⟨fun cpu gpu duty rpms hany => ?_, rfl, rfl⟩
  rw [commandRequests, selectedReadings_of_any hany]
  simp only [List.flatMap_append, flatMap_readingRequests_ite, readingRequests, List.append_assoc]

/-! ## What the Host takes from its results (43_host_sequences.md R160 to R167) -/

theorem takeDone_done {r : Collected} (rest : List Collected) (h : r.outcome = .done) : takeDone (r :: rest) = .ended r rest := by
  simp [takeDone, h]

theorem takeDone_failed {r : Collected} (rest : List Collected) (h : r.outcome = .failed) :
    takeDone (r :: rest) = .failed (r.err.map fun e => e.code) := by
  simp [takeDone, h]

/-- The result of a READ that ended DONE with the byte `b` and no intermediate timeout. -/
def byteResult (b : Byte) : Collected := { outcome := .done, res := some b, err := none, ign := 0#3 }

theorem takeByte_byteResult (b : Byte) (rest : List Collected) : takeByte (byteResult b :: rest) = .ended b rest := by
  rw [takeByte, takeDone_done rest rfl]
  rfl

/-- A reading of one byte (R160 to R162). -/
theorem takeReading_byteResult (b : Byte) (rest : List Collected) :
    takeReading .cpuTemp (byteResult b :: rest) = .ended b.toNat rest ∧
    takeReading .gpuTemp (byteResult b :: rest) = .ended b.toNat rest ∧
    takeReading .fanDuty (byteResult b :: rest) = .ended (scaleDown b.toNat) rest := by
  simp [takeReading, takeByte_byteResult]

/-- The reading of two bytes (R163). -/
theorem takeReading_fanRpms (hi lo : Byte) (rest : List Collected) :
    takeReading .fanRpms (byteResult hi :: byteResult lo :: rest) = .ended (rpm (combined hi lo)) rest := by
  simp [takeReading, takeByte_byteResult]

/-- The lines of a GET_ALL whose five READs end DONE (R164). -/
theorem takeReadings_all (cpu gpu duty hi lo : Byte) :
    takeReadings [.cpuTemp, .gpuTemp, .fanDuty, .fanRpms]
        [byteResult cpu, byteResult gpu, byteResult duty, byteResult hi, byteResult lo] =
      ([⟨.cpuTemp, cpu.toNat⟩, ⟨.gpuTemp, gpu.toNat⟩, ⟨.fanDuty, scaleDown duty.toNat⟩, ⟨.fanRpms, rpm (combined hi lo)⟩],
        .ended () []) := by
  simp [takeReadings, takeReading_byteResult, takeReading_fanRpms]

theorem afterAcquires_done {r1 r2 : Collected} (rest : List Collected) (h1 : r1.outcome = .done) (h2 : r2.outcome = .done) :
    afterAcquires (r1 :: r2 :: rest) = .ended () rest := by
  simp [afterAcquires, takeDone_done, h1, h2]

/-- Once both ACQUIREs ended DONE, the report of a `get` is that of its readings (R166). -/
theorem report_get_of_acquired (c : Config) (f : Selectors) (bare : Bool) {r1 r2 : Collected} (rest : List Collected)
    (h1 : r1.outcome = .done) (h2 : r2.outcome = .done) :
    report c (.get f bare) (r1 :: r2 :: rest) =
      closeReport c (takeReadings (selectedReadings f) rest).1 (takeReadings (selectedReadings f) rest).2 := by
  rw [report, afterAcquires_done rest h1 h2]

/-- A `get` whose first ACQUIRE FAILED has printed no line (R167, R168). -/
theorem report_get_of_failed (c : Config) (f : Selectors) (bare : Bool) {r : Collected} (rest : List Collected) {e : ErrRecord}
    (h : r.outcome = .failed) (he : r.err = some e) :
    report c (.get f bare) (r :: rest) = { lines := [], error := some e.code, usage := false, exit := some c.exitFail } := by
  simp [report, afterAcquires, takeDone_failed, h, he, closeReport]

/-- The report of a `get` of all four readings whose seven requests end DONE: a line for each reading (R164, R170). -/
theorem report_get_all (c : Config) (bare : Bool) {r1 r2 : Collected} (cpu gpu duty hi lo : Byte) (h1 : r1.outcome = .done)
    (h2 : r2.outcome = .done) :
    report c (.get ⟨false, false, false, false⟩ bare)
        [r1, r2, byteResult cpu, byteResult gpu, byteResult duty, byteResult hi, byteResult lo] =
      { lines := [⟨.cpuTemp, cpu.toNat⟩, ⟨.gpuTemp, gpu.toNat⟩, ⟨.fanDuty, scaleDown duty.toNat⟩, ⟨.fanRpms, rpm (combined hi lo)⟩]
        error := none, usage := false, exit := some 0 } := by
  have hall : selectedReadings ⟨false, false, false, false⟩ = [.cpuTemp, .gpuTemp, .fanDuty, .fanRpms] := rfl
  rw [report_get_of_acquired c _ bare _ h1 h2, hall, takeReadings_all, closeReport]

/-- Settles O56: `report_get_all` for the bytes of R173, and the text of its lines. -/
theorem endToEndReading : Obligations.EndToEndReading := by
  intro c ack byte all collected
  have hreport (bare : Bool) : report c (.get all bare) collected =
      { lines := [⟨.cpuTemp, 45⟩, ⟨.gpuTemp, 50⟩, ⟨.fanDuty, 50⟩, ⟨.fanRpms, 718⟩], error := none, usage := false
        exit := some 0 } :=
    report_get_all c bare 45#8 50#8 128#8 0x0B#8 0xB8#8 rfl rfl
  refine ⟨rfl, rfl, rfl, hreport, ?_, ?_⟩
  · rw [hreport]
    decide
  · rw [hreport]
    decide

/-! ## A `get` without privilege (43_host_sequences.md R166 to R168) -/

/-- An ACQUIRE just issued, with the words `q` still to issue (30_encoding.md R77). -/
def State.acquiring (p : PortSel) (q : List RequestWord) (s : State) : State :=
  (({ s with hostQueue := q } : State).clearRequest.latch (.acquire p)).enter .acq

/-- The step that issues an ACQUIRE from the Host's queue (log 6). -/
theorem step_issues_acquire {s : State} {p : PortSel} {q : List RequestWord} (hwf : s.cfg.wf = true) (hidle : s.phase = .idle)
    (hq : s.hostQueue = encode (.acquire p) :: q) : step s = .next (s.acquiring p q) := by
  have hidle' : ({ s with hostQueue := q } : State).phase = .idle := hidle
  rw [stepIssuesTheDecodedRequest s _ q _ hwf hidle hq (decodeOfEncodeIsSame _), exec_idle _ _ hidle',
    State.issue_enters _ _ (.inl rfl)]
  rfl

/-- The step in ACQ where the port is not held and the draw is DENIED (40_port_access.md R90). -/
theorem step_acquire_denied {s : State} {p : PortSel} (hwf : s.cfg.wf = true) (hph : s.phase = .acq)
    (hi : inFlight s = some (.acquire p)) (hfree : s.holds p = false) (hd : s.grantDraw = .denied) :
    step s = .next ((s.acquireDraw p).raise (permissionRecord p)) := by
  rw [stepRunsTheRequestInFlight s _ hwf (by rw [hph]; rfl) hi, exec_acq s p hph hi, acquireStep_denied p s hfree hd]

/-- The result of an ACQUIRE that was DENIED (40_port_access.md R90; 10_state.md R28). -/
def deniedResult (p : PortSel) : Collected := { outcome := .failed, res := none, err := some (permissionRecord p), ign := 0#3 }

/-- From FAILED a CLI run is at its end after the collect, and stays there (log 6, 7). -/
theorem runSteps_cli_failed {s : State} (hwf : s.cfg.wf = true) (hf : s.phase = .failed) (hkind : s.hostKind = .cli) (k : Nat) :
    runSteps (k + 1) s = .next (s.collected .failed) := by
  have hself := step_runEnded (s.collected .failed) hwf (runEnded_collected_cli s hkind)
  rw [runSteps_succ k _ _ (step_failed s hwf hf), runSteps_of_step_self hself]

/-- A CLI run whose next request is an ACQUIRE that is DENIED: three steps, the issue, the draw and the collect, end it. -/
theorem cli_ends_after_denied_acquire {s : State} {p : PortSel} {q : List RequestWord} (hwf : s.cfg.wf = true)
    (hidle : s.phase = .idle) (hkind : s.hostKind = .cli) (hq : s.hostQueue = encode (.acquire p) :: q)
    (hfree : s.holds p = false) (hd : s.grantDraw = .denied) :
    ∃ t, (∀ k, runSteps (3 + k) s = .next t) ∧ runEnded t = true ∧ t.trace = s.trace ++ [.acquire p .denied] ∧
      t.gsc = s.gsc ∧ t.gdata = s.gdata ∧ t.results = s.results ++ [deniedResult p] := by
  have hissue := step_issues_acquire hwf hidle hq
  have hdenied := step_acquire_denied (s := s.acquiring p q) hwf rfl rfl hfree hd
  refine ⟨(((s.acquiring p q).acquireDraw p).raise (permissionRecord p)).collected .failed, fun k => ?_,
    runEnded_collected_cli _ hkind, congrArg (s.trace ++ [.acquire p ·]) hd, rfl, rfl, rfl⟩
  rw [Nat.add_comm, runSteps_succ _ _ _ hissue, runSteps_succ _ _ _ hdenied]
  exact runSteps_cli_failed (s := ((s.acquiring p q).acquireDraw p).raise (permissionRecord p)) hwf rfl hkind k

/-- Settles O55: the queue of a `get` begins with ACQUIRE SC, and no grant is held after reset. -/
theorem getWithoutPrivilegePrintsNothing : Obligations.GetWithoutPrivilegePrintsNothing := by
  intro c f bare ds hwf
  obtain ⟨t, hrun, hend, htrace, hsc, hdata, hresults⟩ :=
    cli_ends_after_denied_acquire (s := { invocation c (.get f bare) with grantIn := .denied :: ds }) (p := .sc) hwf rfl rfl rfl rfl rfl
  have hresults : t.results = [deniedResult .sc] := hresults
  refine ⟨t, hrun, hend, htrace, hsc, hdata, ?_⟩
  rw [hresults, report_get_of_failed c f bare [] rfl rfl]
  rfl

end Sys2Proof.Machine
end

section
/-! PROOFS of the family 70_reset_and_hazards.md: what a wait has seen before the block goes on (R207, R208, R209, R212), and the wait
in IDLE after reset (R200). -/

open Sys2Proof Sys2Proof.Machine

namespace Sys2Proof.Machine

/-! ## The wait in IDLE (R200) -/

/-- Settles O8: a machine in IDLE with an empty queue is at the end of its run. -/
theorem idleWithoutRequestWaits : Obligations.IdleWithoutRequestWaits :=
  fun s hwf hidle hq => step_runEnded s hwf ((runEnded_iff s).2 ⟨hidle, hq⟩)

/-! ## Which wait a step has left (10_state.md R21) -/

theorem successPhase_ne_failed (x : WaitPhase) : successPhase x ≠ .failed := by
  cases x <;> simp [successPhase]

theorem successPhase_ne_wait (x y : WaitPhase) : successPhase x ≠ .wait y := by
  cases x <;> simp [successPhase]

theorem successPhase_ne_idle (x : WaitPhase) : successPhase x ≠ .idle := by
  cases x <;> simp [successPhase]

theorem successPhase_ne_entryPhase (x : WaitPhase) (i : Instr) : successPhase x ≠ entryPhase i := by
  cases i <;> cases x <;> simp [successPhase, entryPhase]

/-- The waits lead to different phases, but for POLL and W4, which both end their request. -/
theorem successPhase_inj {x y : WaitPhase} (h : successPhase y = successPhase x) (hx : successPhase x ≠ .done) : y = x := by
  cases x <;> cases y <;> simp_all [successPhase]

/-- A phase that a wait leads to, other than DONE, stands in the phase table after that wait only. -/
theorem wait_of_nextPhase {o : Op} {ph : Phase} {x : WaitPhase} (h : nextPhase o ph = some (successPhase x))
    (hx : successPhase x ≠ .done) : ph = .wait x := by
  cases ph with
  | wait y =>
    rw [nextPhase_wait, Option.some.injEq] at h
    rw [successPhase_inj h hx]
  | txCmd => exact absurd (Option.some.inj h).symm (successPhase_ne_wait x .w2)
  | txVal => exact absurd (Option.some.inj h).symm (successPhase_ne_wait x .w4)
  | txAddr => cases o <;> exact absurd (Option.some.inj h).symm (successPhase_ne_wait x _)
  | idle => cases h
  | done | failed => exact absurd (Option.some.inj h).symm (successPhase_ne_idle x)
  | acq | ior | iow | rxData => exact absurd (Option.some.inj h).symm hx

/-- The phase table leads to DONE only from the request's last phase, which for WRITE is W4. -/
theorem wait_w4_of_next_done {a v : Byte} {ph : Phase} (hph : ph ∈ phasesOf (.write a v)) (hnext : nextPhase .write ph = some .done) :
    ph = .wait .w4 := by
  simp only [phasesOf, List.mem_cons, List.not_mem_nil, or_false] at hph
  rcases hph with rfl | rfl | rfl | rfl | rfl | rfl | hw4
  on_goal 7 => exact hw4
  all_goals cases hnext

/-- A move to a phase that a wait leads to is the one the phase table gives. -/
theorem EngineMove.next_successPhase {i : Instr} {s t : State} {x : WaitPhase} (h : EngineMove i s t) (ht : t.phase = successPhase x) :
    nextPhase i.op s.phase = some (successPhase x) := by
  rcases h.follows with hnext | ⟨y, _, hph, _⟩ | ⟨_, hph, _⟩ | ⟨_, _, hph, _⟩
  · rw [hnext, ht]
  · exact absurd (ht.symm.trans hph) (successPhase_ne_wait x y)
  · exact absurd (ht.symm.trans hph) (successPhase_ne_failed x)
  · exact absurd (ht.symm.trans hph) (successPhase_ne_failed x)

/-- A send phase or RX_DATA is entered only from its wait: the Host's moves lead to IDLE, to FAILED or to an entry phase. -/
theorem StepMove.wait_of_entered {s t : State} {x : WaitPhase} (h : StepMove s t) (ht : t.phase = successPhase x)
    (hx : successPhase x ≠ .done) : s.phase = .wait x := by
  cases h with
  | waits hidle _ => exact absurd (ht.symm.trans hidle) (successPhase_ne_idle x)
  | issues w rest i _ _ _ =>
    rcases State.issue_phase i { s with hostQueue := rest } with hph | hph
    · exact absurd (ht.symm.trans hph) (successPhase_ne_entryPhase x i)
    · exact absurd (ht.symm.trans hph) (successPhase_ne_failed x)
  | refuses w rest why _ _ _ => exact absurd ht.symm (successPhase_ne_failed x)
  | collectsDone _ => exact absurd ht.symm (successPhase_ne_idle x)
  | collectsFailed _ => exact absurd ht.symm (successPhase_ne_idle x)
  | engine i t _ _ hm => exact wait_of_nextPhase (hm.next_successPhase ht) hx

/-! ## What the attempt that leaves a wait has seen (41_polling.md R102; 42_transactions.md R116, R126) -/

theorem getLsbD_setIgn {x : WaitPhase} {k : Nat} (m : BitVec 3) (hk : ignIndex x = some k) : (setIgn m k).getLsbD k = true := by
  cases x <;> cases hk <;> simp [setIgn]

/-- An attempt that leaves its wait keeps the byte it read in `ST`; that byte has matched, or the timeout was passed over and recorded
in `IGN`. -/
theorem AttemptMove.seen_or_recorded {x : WaitPhase} {b : BitVec 3} {e : Bool} {s t : State} (h : AttemptMove x b e s t)
    (hph : s.phase = .wait x) (ht : t.phase = successPhase x) :
    t.st = some (s.answer .sc) ∧
      (bitMatches (s.answer .sc) b e = true ∨ ∃ k, ignIndex x = some k ∧ s.cfg.policy = .compat ∧ t.ign.getLsbD k = true) := by
  cases h with
  | matched hm => exact ⟨rfl, .inl hm⟩
  | recorded k _ _ hk hpol => exact ⟨rfl, .inr ⟨k, hk, hpol, getLsbD_setIgn s.ign hk⟩⟩
  | surfaced _ _ _ => exact absurd ht.symm (successPhase_ne_failed x)
  | retried _ _ => exact absurd (ht.symm.trans hph) (successPhase_ne_wait x x)

/-- A step that leaves a transaction's wait for the phase after it is such an attempt, of the wait's own bit and value. -/
theorem Consistent.seen_or_recorded {s t : State} (hs : Consistent s) (h : step s = .next t) {x : WaitPhase} {b : BitVec 3} {e : Bool}
    (hph : s.phase = .wait x) (ht : t.phase = successPhase x) (htarget : waitTarget s.cfg x = some (b, e)) :
    t.st = some (s.answer .sc) ∧
      (statusBit (s.answer .sc) b = e ∨ ∃ k, ignIndex x = some k ∧ s.cfg.policy = .compat ∧ t.ign.getLsbD k = true) := by
  have hp : inProgress s.phase = true := by rw [hph]; rfl
  obtain ⟨hwf, _⟩ := step_next s t h
  obtain ⟨i, hi, _⟩ := hs.latched hp
  rw [stepRunsTheRequestInFlight s i hwf hp hi] at h
  obtain ⟨b', e', hwait, hmove⟩ := awaiting_of_exec hph h
  obtain ⟨hb, he⟩ := hs.tested x b e hph htarget
  obtain rfl : b' = b := Option.some.inj (hwait.bit.symm.trans hb)
  obtain rfl : e' = e := Option.some.inj (hwait.expected.symm.trans he)
  simpa [bitMatches] using hmove.seen_or_recorded hph ht

/-- A final wait of a transaction has no bit of `IGN`, and so is left only when its bit was seen (42_transactions.md R125). -/
theorem Consistent.final_wait_seen {s t : State} (hs : Consistent s) (h : step s = .next t) {x : WaitPhase} {b : BitVec 3} {e : Bool}
    (hph : s.phase = .wait x) (ht : t.phase = successPhase x) (htarget : waitTarget s.cfg x = some (b, e))
    (hfinal : ignIndex x = none) : statusBit (s.answer .sc) b = e ∧ t.st = some (s.answer .sc) := by
  obtain ⟨hst, hseen | ⟨k, hk, _⟩⟩ := hs.seen_or_recorded h hph ht htarget
  · exact ⟨hseen, hst⟩
  · cases hk.symm.trans hfinal

/-! ## No byte is sent before the controller is ready, or the timeout recorded (R207, R212) -/

/-- A send phase, entered from its intermediate wait, which tests IBF for 0. -/
theorem Consistent.send_phase_entered {s t : State} (hs : Consistent s) (h : step s = .next t) {x : WaitPhase} {k : Nat}
    (hk : ignIndex x = some k) (ht : t.phase = successPhase x) :
    s.phase = .wait x ∧ t.st = some (s.answer .sc) ∧
      (ibf s.cfg (s.answer .sc) = false ∨ (s.cfg.policy = .compat ∧ t.ign.getLsbD k = true)) := by
  obtain ⟨_, hmove⟩ := step_next s t h
  have htarget : waitTarget s.cfg x = some (ibfBit s.cfg, false) := by cases x <;> cases hk <;> rfl
  have hx : successPhase x ≠ .done := by cases x <;> cases hk <;> simp [successPhase]
  have hph : s.phase = .wait x := hmove.wait_of_entered ht hx
  obtain ⟨hst, hseen⟩ := hs.seen_or_recorded h hph ht htarget
  refine ⟨hph, hst, hseen.imp_right ?_⟩
  rintro ⟨j, hj, hrecorded⟩
  obtain rfl : k = j := Option.some.inj (hk.symm.trans hj)
  exact hrecorded

/-- Settles O38: the send phases are those that W1, W2 and W3 lead to. -/
theorem byteIsSentOnlyAfterReadyOrRecorded : Obligations.ByteIsSentOnlyAfterReadyOrRecorded := by
  rintro s t hs h (ht | ht | ht)
  · obtain ⟨hph, hsent⟩ := hs.send_phase_entered h (x := .w1) rfl ht
    exact ⟨.w1, 0, hph, rfl, hsent⟩
  · obtain ⟨hph, hsent⟩ := hs.send_phase_entered h (x := .w2) rfl ht
    exact ⟨.w2, 1, hph, rfl, hsent⟩
  · obtain ⟨hph, hsent⟩ := hs.send_phase_entered h (x := .w3) rfl ht
    exact ⟨.w3, 2, hph, rfl, hsent⟩

/-! ## DATA is read for a result only after OBF = 1 (R208) -/

/-- Of a READ's moves only the receive step reads DATA: an attempt reads SC, and a send step writes. -/
theorem EngineMove.rxData_of_data_read {a v : Byte} {s t : State} (h : EngineMove (.read a) s t)
    (hv : .ioRead .data v ∈ t.trace.drop s.trace.length) : s.phase = .rxData := by
  cases h with
  | acquires _ hi _ => cases hi
  | reads _ hi _ => cases hi
  | writes _ _ hi _ => cases hi
  | polls x b e _ _ _ _ =>
    rw [State.attempt_trace, List.drop_left] at hv
    split at hv <;> simp at hv
  | sends p w x _ => simp at hv
  | receives _ _ hph => exact hph

/-- Settles O37: the invariant says what RX_DATA has seen, and W_OBF is a final wait. -/
theorem dataIsReadOnlyAfterOutputFull : Obligations.DataIsReadOnlyAfterOutputFull := by
  intro s t hs h
  refine ⟨fun a v hp hi hv => ?_, fun ht => ?_⟩
  · have hrx : s.phase = .rxData := (step_inFlight s t _ hp hi h).rxData_of_data_read hv
    exact ⟨hrx, hs.outputSeen hrx⟩
  · obtain ⟨_, hmove⟩ := step_next s t h
    have hph : s.phase = .wait .wObf := hmove.wait_of_entered ht (by simp [successPhase])
    exact ⟨hph, hs.final_wait_seen h hph ht rfl rfl⟩

/-! ## A WRITE is DONE only after IBF = 0 (R209) -/

/-- Settles O36: the move of a WRITE to DONE leaves W4, a final wait. -/
theorem writeIsDoneOnlyAfterConfirmation : Obligations.WriteIsDoneOnlyAfterConfirmation := by
  intro s t hs h hne hdone hop
  obtain ⟨_, hmove⟩ := step_next s t h
  obtain ⟨i, hp, hi, hm⟩ := hmove.engine_of_done hne hdone
  have hwrite : i.op = .write := Option.some.inj ((inFlight_registers t i (hm.inFlight_kept hi)).1.symm.trans hop)
  cases i <;> cases hwrite
  case write a v =>
    have hph : s.phase = .wait .w4 := wait_w4_of_next_done (hs.phase_mem hp hi) (hm.next_done hdone)
    exact ⟨hph, hs.final_wait_seen h hph hdone rfl rfl⟩

end Sys2Proof.Machine
end
